-- ==== Sys2Proof/Word.lean ====
section
/-! DEFINITION. The word types of CSUM (00_scope.md R6, R7): registers are 32 bits, octets 8, a checksum word 16. -/

namespace Sys2Proof

/-- A 32-bit register, address or command word (R6: register width 32, ADDR_WIDTH 32). -/
abbrev Word := BitVec 32

/-- An octet: "an 8-bit byte" (glossary of 00_scope.md). -/
abbrev Byte := BitVec 8

/-- A 16-bit checksum word or result (R6: word width 16, result width 16). -/
abbrev Half := BitVec 16

end Sys2Proof
end

