-- ==== Sys2Proof/Syntax.lean ====
section
/-! DEFINITION. The five commands of CSUM (30_encoding.md R73), and the assembler's commands with numeric
operands (R77). -/

namespace Sys2Proof

/-- A command, one constructor per row of the opcode map (R73). The operands are the data bytes `B0` and `B1` of
the command word (R71), 8 bits by their type. -/
inductive Instr where
  /-- NOP (41_commands.md R121). -/
  | nop
  /-- CLEAR (R122). -/
  | clear
  /-- ADD2 b0, b1 (R123): `b0` is the byte at the lower address. -/
  | add2 (b0 b1 : Byte)
  /-- ADD1 b0 (R124). -/
  | add1 (b0 : Byte)
  /-- BUF (R125 to R129); its operands are the registers SRC and LEN. -/
  | buf
deriving DecidableEq, Repr

/-- The mnemonic of a command (R73). -/
def Instr.mnemonic : Instr → String
  | .nop => "NOP"
  | .clear => "CLEAR"
  | .add2 _ _ => "ADD2"
  | .add1 _ => "ADD1"
  | .buf => "BUF"

/-- A command as the assembler's syntax writes it (R77): operands are numbers, not yet known to be bytes. -/
inductive Asm where
  | nop
  | clear
  | add2 (b0 b1 : Nat)
  | add1 (b0 : Nat)
  | buf
deriving DecidableEq, Repr

end Sys2Proof
end

