-- ==== Sys2Proof/WellFormed.lean ====
section
/-! DEFINITION. The check the assembler makes (30_encoding.md R77): "an operand outside that range is refused".
An `Instr` needs no check: its operands are bytes by their type and the command has no other field. -/

namespace Sys2Proof

/-- A number that is an operand of a command: 0 to 255 (R77). -/
def operandOk (n : Nat) : Bool := n ≤ 255

/-- The assembler's check of a written command (R77). -/
def Asm.wellFormed : Asm → Bool
  | .nop | .clear | .buf => true
  | .add2 b0 b1 => operandOk b0 && operandOk b1
  | .add1 b0 => operandOk b0

end Sys2Proof
end

