-- ==== Sys2Proof/Decode.lean ====
section
/-! DEFINITION. Decoding and encoding of command words (30_encoding.md R70 to R77), and the assembler's text. -/

namespace Sys2Proof

/-- Field `OP`, bits 7:0 of a command word (R71). -/
def opField (w : Word) : BitVec 8 := w.extractLsb' 0 8

/-- Field `B0`, bits 15:8 (R71). -/
def b0Field (w : Word) : Byte := w.extractLsb' 8 8

/-- Field `B1`, bits 23:16 (R71). -/
def b1Field (w : Word) : Byte := w.extractLsb' 16 8

/-- Field `RSVD`, bits 31:24 (R71). -/
def rsvdField (w : Word) : BitVec 8 := w.extractLsb' 24 8

/-- The decoder, total on every 32-bit word (R76); `none` is ILLEGAL (R74). -/
def decode (w : Word) : Option Instr :=
  if w = 0x00000000#32 then some .nop
  else if w = 0x00000001#32 then some .clear
  else if w &&& 0xFF0000FF#32 = 0x00000002#32 then some (.add2 (b0Field w) (b1Field w))
  else if w &&& 0xFFFF00FF#32 = 0x00000003#32 then some (.add1 (b0Field w))
  else if w = 0x00000004#32 then some .buf
  else none

/-- One row of the opcode map (R73). -/
structure CmdRow where
  mnemonic : String
  pattern  : Word
  mask     : Word
deriving DecidableEq, Repr

/-- The opcode map (R73). -/
def cmdRows : List CmdRow :=
  [ ⟨"NOP",   0x00000000#32, 0xFFFFFFFF#32⟩,
    ⟨"CLEAR", 0x00000001#32, 0xFFFFFFFF#32⟩,
    ⟨"ADD2",  0x00000002#32, 0xFF0000FF#32⟩,
    ⟨"ADD1",  0x00000003#32, 0xFFFF00FF#32⟩,
    ⟨"BUF",   0x00000004#32, 0xFFFFFFFF#32⟩ ]

/-- "a word `w` is that command when `(w & mask) = match`" (R73). -/
def CmdRow.accepts (r : CmdRow) (w : Word) : Bool := w &&& r.mask == r.pattern

/-- A command word from its four fields, most significant first (R71). -/
def cmdWord (rsvd b1 b0 op : BitVec 8) : Word := rsvd ++ b1 ++ b0 ++ op

/-- The word of a command (R77): `{8'h00, b1, b0, OP}` for ADD2, `{16'h0000, b0, OP}` for ADD1, `{24'h000000, OP}`
for the others. -/
def encode : Instr → Word
  | .nop => cmdWord 0x00#8 0x00#8 0x00#8 0x00#8
  | .clear => cmdWord 0x00#8 0x00#8 0x00#8 0x01#8
  | .add2 b0 b1 => cmdWord 0x00#8 b1 b0 0x02#8
  | .add1 b0 => cmdWord 0x00#8 0x00#8 b0 0x03#8
  | .buf => cmdWord 0x00#8 0x00#8 0x00#8 0x04#8

/-- The command a well-formed written command stands for. -/
def Asm.toInstr : Asm → Instr
  | .nop => .nop
  | .clear => .clear
  | .add2 b0 b1 => .add2 (BitVec.ofNat 8 b0) (BitVec.ofNat 8 b1)
  | .add1 b0 => .add1 (BitVec.ofNat 8 b0)
  | .buf => .buf

/-- The assembler (R77): the word of a written command, or nothing where an operand is out of range. -/
def assemble (c : Asm) : Option Word :=
  if c.wellFormed then some (encode c.toInstr) else none

/-- The instruction the decoder reads from an opcode-table word of `nbits` bits: a command is one 32-bit value (R70),
so the table's numbering is the word's own. -/
def decodeTableWord (nbits w : Nat) : Option Instr :=
  decode (BitVec.ofNat 32 (w % 2 ^ nbits))

/-! ### The assembler's text (R77)

"A command is written as its mnemonic followed by comma-separated operands", numbers "in decimal or as `0x`
hexadecimal". Blanks around the mnemonic, the operands and the commas are spaces (DESIGN CHOICE, log 23). -/

/-- A decimal digit's value. -/
def decDigit (c : Char) : Option Nat :=
  if '0' ≤ c ∧ c ≤ '9' then some (c.toNat - '0'.toNat) else none

/-- A hexadecimal digit's value, capital or small. -/
def hexDigit (c : Char) : Option Nat :=
  if '0' ≤ c ∧ c ≤ '9' then some (c.toNat - '0'.toNat)
  else if 'a' ≤ c ∧ c ≤ 'f' then some (c.toNat - 'a'.toNat + 10)
  else if 'A' ≤ c ∧ c ≤ 'F' then some (c.toNat - 'A'.toNat + 10)
  else none

/-- The number a list of digits writes in a base, most significant digit first, continuing from `acc`. -/
def digitsValue (base : Nat) (digit : Char → Option Nat) : Nat → List Char → Option Nat
  | acc, [] => some acc
  | acc, c :: cs =>
    match digit c with
    | some d => digitsValue base digit (acc * base + d) cs
    | none => none

/-- A number of the assembler: `0x` hexadecimal, or decimal; at least one digit (R77). -/
def parseNumber : List Char → Option Nat
  | [] => none
  | '0' :: 'x' :: [] => none
  | '0' :: 'x' :: ds => digitsValue 16 hexDigit 0 ds
  | ds => digitsValue 10 decDigit 0 ds

/-- Leading spaces removed. -/
def skipSpaces : List Char → List Char
  | ' ' :: cs => skipSpaces cs
  | cs => cs

/-- Leading and trailing spaces removed. -/
def trimSpaces (cs : List Char) : List Char := (skipSpaces (skipSpaces cs).reverse).reverse

/-- The parts of a text between its commas: always at least one. -/
def splitCommas : List Char → List (List Char)
  | [] => [[]]
  | ',' :: cs => [] :: splitCommas cs
  | c :: cs =>
    match splitCommas cs with
    | [] => [[c]]
    | p :: ps => (c :: p) :: ps

/-- The operands after a mnemonic: none for an empty text. -/
def parseOperands (cs : List Char) : Option (List Nat) :=
  match trimSpaces cs with
  | [] => some []
  | t => (splitCommas t).mapM fun p => parseNumber (trimSpaces p)

/-- A written command (R77): its mnemonic, then its operands, exactly as many as the command takes. -/
def parseAsm (line : List Char) : Option Asm :=
  let t := skipSpaces line
  let name := t.takeWhile (· ≠ ' ')
  match parseOperands (t.dropWhile (· ≠ ' ')) with
  | none => none
  | some args =>
    if name = ['N', 'O', 'P'] ∧ args = [] then some .nop
    else if name = ['C', 'L', 'E', 'A', 'R'] ∧ args = [] then some .clear
    else if name = ['B', 'U', 'F'] ∧ args = [] then some .buf
    else if name = ['A', 'D', 'D', '2'] then
      match args with
      | [b0, b1] => some (.add2 b0 b1)
      | _ => none
    else if name = ['A', 'D', 'D', '1'] then
      match args with
      | [b0] => some (.add1 b0)
      | _ => none
    else none

/-- The assembler on text: the word of a written command, or nothing where the text is no command or an operand is
out of range. -/
def assembleText (line : List Char) : Option Word := (parseAsm line).bind assemble

end Sys2Proof
end

