-- ==== Sys2Proof/Config.lean ====
section
/-! DEFINITION. The implementation parameters of 00_scope.md R6 and the free values of 93_implementation_defined.md.
The two OPEN parameters a model takes are fields of `Params`; State holds one and no step changes it (R41, R161),
so every statement over all states holds for each of their values. -/

namespace Sys2Proof

/-- The byte order of the 16-bit word read, the OPEN parameter `HOST_ENDIAN` (R6). -/
inductive Endian where
  | little
  | big
deriving DecidableEq, Repr

/-- The OPEN parameters of one CSUM (R6). `CSUM_BASE` is a 32-bit address and a multiple of 0x20, so it is
held as its upper 27 bits (DEDUCED, log 2); `BUS_PROTOCOL` is at signal level and not held (log 18). -/
structure Params where
  hostEndian : Endian
  baseBlock  : BitVec 27
deriving DecidableEq, Repr

/-- The outcome of one byte read by the engine (20_memory.md R55): a byte, or `BusError`. -/
inductive MemAnswer where
  | byte (b : Byte)
  | busError
deriving DecidableEq, Repr, Inhabited

namespace Config

/-- FREE VALUE (log 4). The platform's answer to the engine's read number `n` at an address whose contents the
model does not know: 93_implementation_defined.md I5 and I6, "any value from the memory oracle". -/
opaque memOracle : Nat → Word → MemAnswer

/-- FREE VALUE (log 6). Which of the values a raced location may show the engine's read number `n` gives:
93_implementation_defined.md I4, "any value among the old value and the values written in the interval". -/
opaque raceChoice : Nat → Nat

/-- FREE VALUE (log 27). Which of the values of a raced location the byte number `i` of a BUF turns out to be at its
commit, `n` reads having been performed: I4, as for `raceChoice`. -/
opaque settleChoice : Nat → Nat → Nat

/-- FREE VALUE (log 27). The byte number `i` of a BUF where the value chosen for it is one the model does not know. -/
opaque settleByte : Nat → Nat → Byte

end Config

end Sys2Proof
end

