-- ==== Sys2Proof/Machine/Operands.lean ====
section
/-! DEFINITION. Integer readings of a 32-bit pattern (00_scope.md R8) and the forming of the two kinds of addend
(30_encoding.md R72, 40_checksum.md R101 and R102). -/

namespace Sys2Proof.Machine

/-- `s32(v)`: the two's-complement integer of a pattern (R8). -/
def s32 (v : Word) : Int := v.toInt

/-- `u32(n)`: the 32-bit pattern of an integer modulo 2^32 (R8). -/
def u32 (n : Int) : Word := BitVec.ofInt 32 n

/-- `asr(n, k)`: "the floor of n / 2^k for an integer n" (R8). -/
def asr (n : Int) (k : Nat) : Int := n / 2 ^ k

/-- The integer `n & 0xFFFF`, in [0, 0xFFFF] (R8, R104). -/
def low16 (n : Int) : Int := n % 65536

/-- `Word(b0, b1)`: the 16-bit word of the byte at the lower and the byte at the higher address, in HOST_ENDIAN
order (R101). -/
def wordOf (e : Endian) (b0 b1 : Byte) : Half :=
  match e with
  | .little => b1 ++ b0
  | .big => b0 ++ b1

/-- `Tail(b)`: the trailing byte's unsigned value, not shifted (R102). -/
def tailOf (b : Byte) : Half := b.zeroExtend 16

end Sys2Proof.Machine
end

