-- ==== Sys2Proof/Machine/Checksum.lean ====
section
/-! DEFINITION. The checksum arithmetic as pure functions (40_checksum.md R100 to R109). -/

namespace Sys2Proof.Machine

/-- The initial accumulator (R100). -/
def initialAcc : Word := 0x00000000#32

/-- `Add(acc, v)`: the sum modulo 2^32, and whether the signed 32-bit addition overflowed (R103). -/
def accAdd (acc : Word) (v : Half) : Word × Bool :=
  let r := s32 acc + v.toNat
  (u32 r, decide (r > 2 ^ 31 - 1))

/-- `Fold(acc)`: two additions of the high half into the low half, an integer, no masking (R104). -/
def fold (acc : Word) : Int :=
  let n := s32 acc
  let a1 := asr n 16 + low16 n
  a1 + asr a1 16

/-- `Complement16(a2)`: the bitwise complement truncated to 16 bits (R105). -/
def complement16 (a2 : Int) : Half := (~~~ (u32 a2)).setWidth 16

/-- `Result(acc)` (R106). -/
def result (acc : Word) : Half := complement16 (fold acc)

/-- `Sum(acc0, b, n)` for the whole list `b` (R108): words while two bytes remain, then a single trailing byte; the
accumulator and whether any addition overflowed. -/
def sumBytes (e : Endian) : Word → List Byte → Word × Bool
  | acc, [] => (acc, false)
  | acc, [b] => accAdd acc (tailOf b)
  | acc, b0 :: b1 :: rest =>
    let one := accAdd acc (wordOf e b0 b1)
    let more := sumBytes e one.1 rest
    (more.1, one.2 || more.2)

/-- `Checksum(b, n)` for the whole list `b` (R108, R109). -/
def checksum (e : Endian) (bytes : List Byte) : Half := result (sumBytes e initialAcc bytes).1

/-- `bswap16`: the two bytes of a 16-bit value swapped (R113). -/
def bswap16 (x : Half) : Half := x.extractLsb' 0 8 ++ x.extractLsb' 8 8

/-- The two bytes of a 16-bit value in HOST_ENDIAN order, lower address first: what R112 and R172 have software
store into a checksum field. -/
def halfBytes (e : Endian) (x : Half) : List Byte :=
  match e with
  | .little => [x.extractLsb' 0 8, x.extractLsb' 8 8]
  | .big => [x.extractLsb' 8 8, x.extractLsb' 0 8]

end Sys2Proof.Machine
end

