-- ==== Sys2Proof/Machine/State.lean ====
section
/-! DEFINITION. The state of CSUM (10_state.md R41), the platform and the hosts around it as plain data, the
outcomes' reason types, and the state after reset (R42). -/

namespace Sys2Proof.Machine

/-- No step of CSUM faults: "No behaviour of CSUM is treated as `fault` or `stuck`" (93_implementation_defined.md),
so there is no reason to name (log 15). Safe: nothing is hidden behind a stop. -/
inductive Fault where
deriving DecidableEq, Repr

/-- The reasons an instruction is refused. -/
inductive Refusal where
  /-- Raised by `exec` for an instruction that has no meaning yet; no arm of this model raises it. Safe. -/
  | notModelled (mnemonic : String)
deriving DecidableEq, Repr

/-- The error codes of 60_exceptions.md R140. -/
inductive ErrCode where
  | noError
  | illegal
  | busy
  | range
  | busErr
deriving DecidableEq, Repr

/-- The eight registers of the window, in offset order (10_state.md R21). -/
inductive Reg where
  | id
  | cmd
  | status
  | acc
  | result
  | src
  | len
  | rsvd
deriving DecidableEq, Repr

/-- The width of a bus access (20_memory.md R51). -/
inductive Width where
  | w8
  | w16
  | w32
  | w64
deriving DecidableEq, Repr

/-- One operation of a host (30_encoding.md R78; accesses of any width and address, 20_memory.md R51). -/
inductive HostOp where
  /-- A bus read. -/
  | read (w : Width) (addr : Word)
  /-- A bus write; `v` is the 32-bit number it delivers (R52); for other widths it is never used (log 21). -/
  | write (w : Width) (addr : Word) (v : Word)
  /-- `POLL REG, mask, v`: repeat `RD REG` until `(value & mask) = v`. -/
  | poll (r : Reg) (mask v : Word)
  /-- `ST8 addr, v`: one byte store to ordinary memory, at the moment it is visible to the engine (R61, log 19). -/
  | store (addr : Word) (b : Byte)
deriving DecidableEq, Repr

/-- Which agent moves (00_scope.md R10, 93_implementation_defined.md I7). -/
inductive Turn where
  | host
  | engine
  | reset
deriving DecidableEq, Repr

/-- What the register port answers to one access: the value of a read, the completion of a write, or the error
response to a refused access (20_memory.md R51; log 10). -/
inductive Response where
  | value (v : Word)
  | done
  | busError
deriving DecidableEq, Repr

/-- System memory as the model knows it: (address, byte) pairs of ordinary memory, addresses strictly rising. An
unlisted address reads as the memory oracle answers (log 4). -/
abbrev Memory := List Host.Cell

/-- The state: R41's tuple and parameters, then the platform, the hosts and the scheduler, which are not CSUM's. -/
structure State where
  /-- ACC, the checksum accumulator (R24). -/
  acc : Word
  /-- SRC, the address of the first byte BUF reads (R26). -/
  src : Word
  /-- LEN, the number of bytes BUF reads (R27). -/
  len : Word
  /-- STATUS.BUSY (R29). -/
  busy : Bool
  /-- STATUS.OVF (R30). -/
  ovf : Bool
  /-- STATUS.TAIL (R31). -/
  tail : Bool
  /-- STATUS.TAILV (R32). -/
  tailv : Bool
  /-- STATUS.ERR (R33). -/
  err : Bool
  /-- STATUS.ERRCODE, 4 bits (R33). -/
  errcode : BitVec 4
  /-- `eng_src` (R36). -/
  engSrc : Word
  /-- `eng_len` (R36). -/
  engLen : Word
  /-- `eng_acc0` (R36). -/
  engAcc0 : Word
  /-- `eng_tail0` (R36). -/
  engTail0 : Bool
  /-- `eng_bytes`, the bytes read so far (R36). -/
  engBytes : List Byte
  /-- The configuration parameters HOST_ENDIAN and CSUM_BASE (R41). -/
  params : Params
  /-- The platform's ordinary memory (20_memory.md R54; not CSUM state). -/
  mem : Memory
  /-- The addresses the platform answers with BusError (R55, I5). -/
  busErrs : List Nat
  /-- For the BUF in flight: the values each location written since its acceptance held and was given, `none` being one
  the model does not know; the engine's read of it may give any of them, whether it comes before or after the write
  (R60, R166, I4; log 6, log 27). -/
  raceLog : List (Nat × Option Byte)
  /-- The addresses the engine has read, oldest first (R60, R63; log 20). -/
  engineReads : List Word
  /-- The hosts' operations still to come, in the port's order (R59). -/
  host : List HostOp
  /-- The turns still to come (I7; log 7). -/
  sched : List Turn
  /-- The port's answers so far, oldest first (R174). -/
  responses : List Response
deriving DecidableEq, Repr

/-- The machine right after reset (R42) in a configuration `p`: ACC, SRC, LEN and every STATUS field 0. The engine's
registers are meaningless (R42; 0 here, log 3); nothing is known of memory, no operation and no turn is pending. -/
def State.resetWith (p : Params) : State where
  acc := 0#32
  src := 0#32
  len := 0#32
  busy := false
  ovf := false
  tail := false
  tailv := false
  err := false
  errcode := 0#4
  engSrc := 0#32
  engLen := 0#32
  engAcc0 := 0#32
  engTail0 := false
  engBytes := []
  params := p
  mem := []
  busErrs := []
  raceLog := []
  engineReads := []
  host := []
  sched := []
  responses := []

/-- The state after reset for one named value of the OPEN parameters: HOST_ENDIAN = LITTLE (log 1), CSUM_BASE = 0
(log 2). No statement rests on these two: they are made for every state, or for `State.resetWith p`. -/
def State.reset : State := State.resetWith ⟨.little, 0#27⟩

end Sys2Proof.Machine
end

