-- ==== Sys2Proof/Machine/Flags.lean ====
section
/-! DEFINITION. The STATUS register as a word (10_state.md R28), its write-1-to-clear bits (R34) and the error
codes (60_exceptions.md R140). -/

namespace Sys2Proof.Machine

/-- The code recorded in ERRCODE (R140). -/
def ErrCode.code : ErrCode → BitVec 4
  | .noError => 0#4
  | .illegal => 1#4
  | .busy => 2#4
  | .range => 3#4
  | .busErr => 4#4

/-- What a read of STATUS returns: `{20'b0, ERRCODE[3:0], 3'b0, ERR, TAILV, TAIL, OVF, BUSY}` (R28). -/
def State.statusWord (s : State) : Word :=
  0#20 ++ s.errcode ++ 0#3 ++ BitVec.ofBool s.err ++ BitVec.ofBool s.tailv ++ BitVec.ofBool s.tail
    ++ BitVec.ofBool s.ovf ++ BitVec.ofBool s.busy

/-- STATUS write bit 1 clears OVF (R34). -/
def clearsOvf (v : Word) : Bool := v.getLsbD 1

/-- STATUS write bit 3 clears TAILV (R34). -/
def clearsTailv (v : Word) : Bool := v.getLsbD 3

/-- STATUS write bit 4 clears ERR and ERRCODE (R34). -/
def clearsErr (v : Word) : Bool := v.getLsbD 4

/-- A host write of `v` to STATUS, whatever BUSY is (R34); also the "return" from an error (60_exceptions.md R149). -/
def State.writeStatus (v : Word) (s : State) : State :=
  { s with
    ovf := s.ovf && !clearsOvf v
    tailv := s.tailv && !clearsTailv v
    err := s.err && !clearsErr v
    errcode := if clearsErr v then 0#4 else s.errcode }

end Sys2Proof.Machine
end

