-- ==== Sys2Proof/Machine/Ops.lean ====
section
/-! DEFINITION. The shared operations over CSUM's registers, its errors, the register window and system memory. -/

namespace Sys2Proof.Machine

/-! ### Errors (60_exceptions.md) -/

/-- `raise Error(code)` (R141): the first error since the last clear is kept; no other state changes. -/
def State.raise (c : ErrCode) (s : State) : State :=
  { s with err := true, errcode := if s.err then s.errcode else c.code }

/-- The BUSY interlock (20_memory.md R53): while BUSY = 1 the write is ignored and raises BUSY instead. -/
def State.unlessBusy (f : State → State) (s : State) : State :=
  if s.busy then s.raise .busy else f s

/-! ### The accumulator -/

/-- One addition to ACC by a command (41_commands.md R123, R124): OVF is set on overflow, TAILV if TAIL = 1. -/
def State.addData (v : Half) (s : State) : State :=
  { s with
    acc := (accAdd s.acc v).1
    ovf := s.ovf || (accAdd s.acc v).2
    tailv := s.tailv || s.tail }

/-! ### BUF (41_commands.md) -/

/-- `SRC + LEN > 2^32`, as unsigned integers, no wrap (R125). -/
def State.rangeBad (s : State) : Bool := s.src.toNat + s.len.toNat > 2 ^ 32

/-- BUF start (R126). -/
def State.startEngine (s : State) : State :=
  { s with
    engSrc := s.src
    engLen := s.len
    engAcc0 := s.acc
    engTail0 := s.tail
    engBytes := []
    busy := true
    raceLog := [] }

/-- The engine has performed a read of `a` (R60, R63). -/
def State.noteRead (a : Word) (s : State) : State := { s with engineReads := s.engineReads ++ [a] }

/-- `eng_bytes <- eng_bytes ++ [r]` (R127). -/
def State.pushByte (b : Byte) (s : State) : State := { s with engBytes := s.engBytes ++ [b] }

/-- BUF abort (R129): BUSERR is raised and BUSY cleared; ACC, OVF, TAIL and TAILV are unchanged. -/
def State.abort (s : State) : State := { s.raise .busErr with busy := false }

/-! ### Reset (70_reset_and_hazards.md) -/

/-- The reset step (R160): every piece of CSUM's state at its value of 10_state.md R42. The configuration (R161),
the platform, the hosts and the reads already performed are untouched. -/
def State.resetStep (s : State) : State :=
  { s with
    acc := 0#32
    src := 0#32
    len := 0#32
    busy := false
    ovf := false
    tail := false
    tailv := false
    err := false
    errcode := 0#4
    engSrc := 0#32
    engLen := 0#32
    engAcc0 := 0#32
    engTail0 := false
    engBytes := []
    raceLog := [] }

/-! ### System memory (20_memory.md R54) -/

/-- The byte a listed address holds; `none` for an unlisted one. -/
def Memory.read : Memory → Nat → Option Byte
  | [], _ => none
  | c :: m, a => if c.1 = a then some c.2 else Memory.read m a

/-- A byte stored: the cell at its address, in its place in the order. -/
def Memory.write : Memory → Nat → Byte → Memory
  | [], a, b => [(a, b)]
  | c :: m, a, b =>
    if a < c.1 then (a, b) :: c :: m
    else if a = c.1 then (a, b) :: m
    else c :: Memory.write m a b

/-- An address made unlisted: what it holds is no longer known. -/
def Memory.erase : Memory → Nat → Memory
  | [], _ => []
  | c :: m, a => if c.1 = a then m else c :: Memory.erase m a

/-- A known byte stored, or an unknown one. -/
def Memory.put (m : Memory) (a : Nat) : Option Byte → Memory
  | some b => m.write a b
  | none => m.erase a

/-- Addresses strictly rising, the first above `lo` where there is a bound, the last below 2^32. -/
def Memory.risingFrom : Option Nat → Memory → Bool
  | _, [] => true
  | lo, c :: m => lo.all (· < c.1) && decide (c.1 < 2 ^ 32) && Memory.risingFrom (some c.1) m

/-- The one canonical form of memory (R54: addresses 0 to 2^32 - 1). No entry can equal what an unlisted address
reads as, since that is a free value (log 4). -/
def Memory.wf (m : Memory) : Bool := Memory.risingFrom none m

/-! ### The register window (10_state.md R20, R21) -/

/-- CSUM_BASE (00_scope.md R6): a multiple of 0x20. -/
def Params.base (p : Params) : Word := p.baseBlock ++ 0#5

/-- A byte address of the register window (R20). -/
def State.inWindow (s : State) (a : Word) : Bool := a.extractLsb' 5 27 == s.params.baseBlock

/-! ### Races (20_memory.md R60, 70_reset_and_hazards.md R166) -/

/-- A store to memory becomes visible (20_memory.md R60, R61); `none` is a byte the model does not know. While a BUF
is in flight, what the location held and what it was given both become values its read may give. -/
def State.storeByte (a : Word) (b : Option Byte) (s : State) : State :=
  { s with
    mem := s.mem.put a.toNat b
    raceLog :=
      if s.busy then s.raceLog ++ [(a.toNat, s.mem.read a.toNat), (a.toNat, b)] else s.raceLog }

/-- The values the race log lists for an address: none where nothing has raced it. -/
def State.racedValues (s : State) (a : Nat) : List (Option Byte) := (s.raceLog.filter (·.1 == a)).map (·.2)

/-- The values the engine's read of `a` may return: those the race log lists for it, or what memory holds. -/
def State.candidates (s : State) (a : Nat) : List (Option Byte) :=
  match s.racedValues a with
  | [] => [s.mem.read a]
  | c :: cs => c :: cs

/-- One of the candidates: the one a free number `k` picks (93_implementation_defined.md I4). -/
def pickCandidate (k : Nat) (cs : List (Option Byte)) : Option Byte :=
  match cs with
  | [] => none
  | [c] => c
  | c :: cs => (c :: cs).getD (k % (cs.length + 1)) none

/-- What the byte `b` read as number `i` of the BUF in flight turns out to be. R60 lets the read of a byte written
"between acceptance and commit" give any value written in that interval, a write AFTER the read included, so the race is
settled at the commit: one of the byte read and the values the race log lists for its address (log 27). -/
def State.settledByte (s : State) (i : Nat) (b : Byte) : Byte :=
  match s.racedValues (s.engSrc + BitVec.ofNat 32 i).toNat with
  | [] => b
  | c :: cs =>
    (pickCandidate (Config.settleChoice s.engineReads.length i) (some b :: c :: cs)).getD
      (Config.settleByte s.engineReads.length i)

/-- The bytes the BUF in flight sums: `eng_bytes` where nothing raced. -/
def State.settledBytes (s : State) : List Byte := s.engBytes.mapIdx s.settledByte

/-- BUF commit (41_commands.md R128), of the bytes the reads gave (R60). -/
def State.commit (s : State) : State :=
  { s with
    acc := (sumBytes s.params.hostEndian s.engAcc0 s.settledBytes).1
    ovf := s.ovf || (sumBytes s.params.hostEndian s.engAcc0 s.settledBytes).2
    tailv := s.tailv || s.engTail0
    tail := s.tail || s.engLen.getLsbD 0
    busy := false }

/-- `MemRead(addr, 1)` (20_memory.md R55): the platform's answer to one read by the engine. An address in CSUM's own
window (R54, I6) and one whose contents are not known are answered by the memory oracle. -/
def State.memRead (s : State) (a : Word) : MemAnswer :=
  let n := s.engineReads.length
  if s.inWindow a then Config.memOracle n a
  else if s.busErrs.contains a.toNat then .busError
  else
    match pickCandidate (Config.raceChoice n) (s.candidates a.toNat) with
    | some b => .byte b
    | none => Config.memOracle n a

/-! ### The port's answers -/

/-- The port answers one access. -/
def State.respond (r : Response) (s : State) : State := { s with responses := s.responses ++ [r] }

end Sys2Proof.Machine
end

