-- ==== Sys2Proof/Machine/Commands.lean ====
section
/-! DEFINITION. The meaning of each command (41_commands.md R121 to R126): what a CMD write of its word does,
the BUSY check of R120 included. -/

namespace Sys2Proof.Machine

/-- NOP (R121): no state changes. -/
def execNop (s : State) : Host.Outcome State Fault Refusal :=
  .next (s.unlessBusy fun s => s)

/-- CLEAR (R122): "start a new checksum". ERR, ERRCODE, SRC and LEN are kept. -/
def execClear (s : State) : Host.Outcome State Fault Refusal :=
  .next (s.unlessBusy fun s => { s with acc := initialAcc, ovf := false, tail := false, tailv := false })

/-- ADD2 b0, b1 (R123): add one 16-bit word in HOST_ENDIAN order. -/
def execAdd2 (b0 b1 : Byte) (s : State) : Host.Outcome State Fault Refusal :=
  .next (s.unlessBusy fun s => s.addData (wordOf s.params.hostEndian b0 b1))

/-- ADD1 b0 (R124): add the trailing byte, not shifted, and set TAIL. -/
def execAdd1 (b0 : Byte) (s : State) : Host.Outcome State Fault Refusal :=
  .next (s.unlessBusy fun s => { s.addData (tailOf b0) with tail := true })

/-- BUF (R125): a RANGE error, or nothing for LEN = 0, or the engine starts (R126). -/
def execBuf (s : State) : Host.Outcome State Fault Refusal :=
  .next (s.unlessBusy fun s =>
    if s.rangeBad then s.raise .range
    else if s.len = 0#32 then s
    else s.startEngine)

end Sys2Proof.Machine
end

