-- ==== Sys2Proof/Machine/Dispatch.lean ====
section
/-! DEFINITION. One arm per command. -/

namespace Sys2Proof.Machine

def exec (i : Instr) (s : State) : Host.Outcome State Fault Refusal :=
  match i with
  | .nop => Sys2Proof.Machine.execNop s
  | .clear => Sys2Proof.Machine.execClear s
  | .add2 b0 b1 => Sys2Proof.Machine.execAdd2 b0 b1 s
  | .add1 b0 => Sys2Proof.Machine.execAdd1 b0 s
  | .buf => Sys2Proof.Machine.execBuf s

end Sys2Proof.Machine
end

