-- ==== Sys2Proof/Machine/Port.lean ====
section
/-! DEFINITION. The register port (10_state.md R20 to R35, 20_memory.md R50 to R53), the issue of a command
(41_commands.md R120) and one step of a host (30_encoding.md R78). -/

namespace Sys2Proof.Machine

/-! ### The register map -/

/-- A register's byte offset in the window (R21). -/
def Reg.offset : Reg → Word
  | .id => 0x00#32
  | .cmd => 0x04#32
  | .status => 0x08#32
  | .acc => 0x0C#32
  | .result => 0x10#32
  | .src => 0x14#32
  | .len => 0x18#32
  | .rsvd => 0x1C#32

/-- The bus address of a register. -/
def Reg.addr (p : Params) (r : Reg) : Word := Params.base p + r.offset

/-- The register at a byte offset of the window; none at an offset that is not a multiple of 4 (R21, R51). -/
def regAt (off : BitVec 5) : Option Reg :=
  match off.toNat with
  | 0x00 => some .id
  | 0x04 => some .cmd
  | 0x08 => some .status
  | 0x0C => some .acc
  | 0x10 => some .result
  | 0x14 => some .src
  | 0x18 => some .len
  | 0x1C => some .rsvd
  | _ => none

/-- The bytes of an access (R51). -/
def Width.bytes : Width → Nat
  | .w8 => 1
  | .w16 => 2
  | .w32 => 4
  | .w64 => 8

/-- The addresses an access touches. -/
def touched (w : Width) (a : Word) : List Word :=
  (List.range w.bytes).map fun i => a + BitVec.ofNat 32 i

/-- What an access is to CSUM: an access of a register, an access to the window that is refused (R51), or an access
that touches no byte of the window (log 11). -/
inductive Selection where
  | reg (r : Reg)
  | refused
  | elsewhere
deriving DecidableEq, Repr

/-- R51: "Only a 32-bit access whose address is `CSUM_BASE + 4*k`, k in 0..7, is a register access. Any other access
to the window … is refused". -/
def State.select (s : State) (w : Width) (a : Word) : Selection :=
  if (touched w a).any s.inWindow then
    if w = .w32 ∧ s.inWindow a = true then
      match regAt (a.extractLsb' 0 5) with
      | some r => .reg r
      | none => .refused
    else .refused
  else .elsewhere

/-! ### Reads -/

/-- HOST_ENDIAN_BIT (R22). -/
def endianBit : Endian → BitVec 1
  | .little => 0#1
  | .big => 1#1

/-- ID (R22): 0x4353, the block revision 0x01, seven zero bits, HOST_ENDIAN_BIT. -/
def idWord (p : Params) : Word := 0x4353#16 ++ 0x01#8 ++ 0#7 ++ endianBit p.hostEndian

/-- The number a host read of a register returns (R22 to R28, R35). -/
def State.readReg (s : State) : Reg → Word
  | .id => idWord s.params
  | .cmd => 0#32
  | .status => s.statusWord
  | .acc => s.acc
  | .result => (result s.acc).zeroExtend 32
  | .src => s.src
  | .len => s.len
  | .rsvd => 0#32

/-! ### Writes -/

/-- Issue of a command (R120): BUSY is checked first, then the word is decoded, then the command executes. Each
meaning makes the BUSY check itself (log 14). -/
def issue (w : Word) (s : State) : Host.Outcome State Fault Refusal :=
  match decode w with
  | some i => exec i s
  | none => .next (s.unlessBusy (State.raise .illegal))

/-- A host write of `v` to a register (R22 to R27, R34, R35; the BUSY interlock, R53). -/
def writeReg (r : Reg) (v : Word) (s : State) : Host.Outcome State Fault Refusal :=
  match r with
  | .id | .result | .rsvd => .next s
  | .cmd => issue v s
  | .status => .next (s.writeStatus v)
  | .acc => .next (s.unlessBusy fun s => { s with acc := v })
  | .src => .next (s.unlessBusy fun s => { s with src := v })
  | .len => .next (s.unlessBusy fun s => { s with len := v })

/-! ### Accesses that are not CSUM's -/

/-- A write of the platform's: the bytes it touches outside CSUM's window hold values the model does not know, since
byte lanes are `BUS_PROTOCOL`'s (R52; log 11). -/
def State.forgetOutside (w : Width) (a : Word) (s : State) : State :=
  ((touched w a).filter fun x => !s.inWindow x).foldl (fun t x => t.storeByte x none) s

/-! ### One step of a host -/

/-- One operation of a host, one atomic step (R50, R78). -/
def hostStep (op : HostOp) (s : State) : Host.Outcome State Fault Refusal :=
  match op with
  | .read w a =>
    match s.select w a with
    | .reg r => .next (s.respond (.value (s.readReg r)))
    | .refused => .next (s.respond .busError)
    | .elsewhere => .next s
  | .write w a v =>
    match s.select w a with
    | .reg r => writeReg r v (s.respond .done)
    | .refused => .next ((s.forgetOutside w a).respond .busError)
    | .elsewhere => .next (s.forgetOutside w a)
  | .poll r mask v =>
    if s.readReg r &&& mask = v then .next (s.respond (.value (s.readReg r)))
    else .next { s.respond (.value (s.readReg r)) with host := .poll r mask v :: s.host }
  | .store a b =>
    if s.inWindow a then .next (s.respond .busError)
    else .next (s.storeByte a (some b))

/-- A host's turn: its next operation, or nothing where none is pending. -/
def hostTurn (s : State) : Host.Outcome State Fault Refusal :=
  match s.host with
  | [] => .next s
  | op :: rest => hostStep op { s with host := rest }

end Sys2Proof.Machine
end

