-- ==== Sys2Proof/Machine/HostOps.lean ====
section
/-! DEFINITION. The host's notation (30_encoding.md R78) and the pseudo-instructions with their expansions (R79). -/

namespace Sys2Proof.Machine

/-- `WR REG, v` (R78). -/
def hostWR (p : Params) (r : Reg) (v : Word) : HostOp := .write .w32 (r.addr p) v

/-- `RD REG` (R78). -/
def hostRD (p : Params) (r : Reg) : HostOp := .read .w32 (r.addr p)

/-- `CMD <command>` (R78). -/
def hostCMD (p : Params) (i : Instr) : HostOp := hostWR p .cmd (encode i)

/-- `CSUM src, len` (R79). -/
def csumOps (p : Params) (src len : Word) : List HostOp :=
  [ hostWR p .src src, hostWR p .len len, hostCMD p .clear, hostCMD p .buf,
    .poll .status 0x1#32 0x0#32, hostRD p .result ]

/-- The ADD2 and ADD1 commands for bytes given inline, words from the start and a trailing byte last (R79, R131). -/
def addCommands : List Byte → List Instr
  | [] => []
  | [b] => [.add1 b]
  | b0 :: b1 :: rest => .add2 b0 b1 :: addCommands rest

/-- `CSUMW b0, …` (R79). -/
def csumwOps (p : Params) (bytes : List Byte) : List HostOp :=
  hostCMD p .clear :: (addCommands bytes).map (hostCMD p) ++ [hostRD p .result]

/-- `CLRST` (R79). -/
def clrstOps (p : Params) : List HostOp := [hostWR p .status 0x1A#32]

/-- An operation pending as the next in the port's order, at a host's turn. -/
def State.offer (op : HostOp) (s : State) : State :=
  { s with host := op :: s.host, sched := .host :: s.sched }

/-- A turn pending as the next of the schedule. -/
def State.grant (t : Turn) (s : State) : State := { s with sched := t :: s.sched }

end Sys2Proof.Machine
end

