-- ==== Sys2Proof/Machine/Engine.lean ====
section
/-! DEFINITION. The engine's steps (41_commands.md R127 to R129). -/

namespace Sys2Proof.Machine

/-- The address of the engine's next read, `eng_src + i` (R127). -/
def State.engineAddr (s : State) : Word := s.engSrc + BitVec.ofNat 32 s.engBytes.length

/-- The engine takes the platform's answer to its read (R127), or aborts (R129). -/
def State.takeAnswer (r : MemAnswer) (s : State) : State :=
  match r with
  | .byte b => s.pushByte b
  | .busError => s.abort

/-- The engine's read step (R127). -/
def State.engineRead (s : State) : State :=
  (s.noteRead s.engineAddr).takeAnswer (s.memRead s.engineAddr)

/-- The engine's turn: the read step while bytes remain, the commit step when none does (R127, R128). With BUSY = 0
no engine step is enabled (R174), and nothing happens. -/
def engineStep (s : State) : State :=
  if s.busy then
    if s.engBytes.length < s.engLen.toNat then s.engineRead
    else if s.engBytes.length = s.engLen.toNat then s.commit
    else s
  else s

end Sys2Proof.Machine
end

