-- ==== Sys2Proof/Machine/Turns.lean ====
section
/-! DEFINITION. Which agent moves (00_scope.md R10; 93_implementation_defined.md I7; log 7). -/

namespace Sys2Proof.Machine

/-- The agent whose turn it is: the schedule's next, and after its end the engine while BUSY = 1 (weak fairness,
41_commands.md R132), else a host. -/
def State.nextTurn (s : State) : Turn :=
  match s.sched with
  | t :: _ => t
  | [] => if s.busy then .engine else .host

/-- The schedule moves on. -/
def State.popTurn (s : State) : State := { s with sched := s.sched.tail }

/-- One atomic step of the agent whose turn it is. -/
def takeTurn (s : State) : Host.Outcome State Fault Refusal :=
  match s.nextTurn with
  | .host => hostTurn s.popTurn
  | .engine => .next (engineStep s.popTurn)
  | .reset => .next s.popTurn.resetStep

end Sys2Proof.Machine
end

