-- ==== Sys2Proof/Machine/Step.lean ====
section
/-! DEFINITION. The step of the machine, and how a command word is placed where the next step takes it. -/

namespace Sys2Proof.Machine

/-- One step: one atomic step of the agent whose turn it is. -/
def step (s : State) : Host.Outcome State Fault Refusal := takeTurn s

/-- CSUM has no program counter: "a command is the data of one CMD write" (10_state.md R38). So the word stands where
the next step takes a command from: as a host's pending CMD write, first in the port's order, at a host's turn. -/
def State.withFetchWord (s : State) (nbits w : Nat) : State :=
  s.offer (hostWR s.params .cmd (BitVec.ofNat 32 (w % 2 ^ nbits)))

end Sys2Proof.Machine
end

