-- ==== Sys2Proof/Safety.lean ====
section
/-! DEFINITION. What claims about CSUM are made in: the invariant, the premises and the end of a run
(70_reset_and_hazards.md R174, R175), and what a host's turn is about to do. -/

namespace Sys2Proof.Machine

/-- The invariant every step keeps. Its engine clauses are 10_state.md R36's; its error clauses are R33's and
93_implementation_defined.md I8's; its memory clause is the one canonical form. -/
structure State.Inv (s : State) : Prop where
  /-- R33: "ERR = 0 implies ERRCODE = 0". -/
  errcodeZero : s.err = false → s.errcode = 0#4
  /-- R33, R140: with ERR = 1 the code is one of 1 to 4. -/
  errcodeLegal : s.err = true → 1 ≤ s.errcode.toNat ∧ s.errcode.toNat ≤ 4
  /-- R36: `eng_src = SRC` throughout a BUF. -/
  engSrcEq : s.busy = true → s.engSrc = s.src
  /-- R36: `eng_len = LEN`. -/
  engLenEq : s.busy = true → s.engLen = s.len
  /-- R36: `eng_acc0 = ACC`. -/
  engAcc0Eq : s.busy = true → s.engAcc0 = s.acc
  /-- R126: TAIL keeps its value during a BUF. -/
  engTail0Eq : s.busy = true → s.engTail0 = s.tail
  /-- R36: `eng_len` > 0. -/
  engLenPos : s.busy = true → 0 < s.engLen.toNat
  /-- R36: the length of `eng_bytes` is 0 to `eng_len`. -/
  engBytesLe : s.busy = true → s.engBytes.length ≤ s.engLen.toNat
  /-- R125: an accepted range does not pass the top of the address space. -/
  rangeLegal : s.busy = true → s.engSrc.toNat + s.engLen.toNat ≤ 2 ^ 32
  /-- Memory keeps its canonical form. -/
  memWf : s.mem.wf = true

/-- The premise `after_reset` (R175): every CSUM register at its R42 value. -/
def State.afterReset (s : State) : Prop :=
  s.acc = 0#32 ∧ s.src = 0#32 ∧ s.len = 0#32 ∧ s.busy = false ∧ s.ovf = false ∧ s.tail = false ∧
    s.tailv = false ∧ s.err = false ∧ s.errcode = 0#4

/-- The premise `idle_clean` (R175): BUSY = 0 and ERR = 0. -/
def State.idleClean (s : State) : Prop := s.busy = false ∧ s.err = false

/-- Quiescence (R174): no engine step is enabled. -/
def State.quiescent (s : State) : Prop := s.busy = false

/-- The end of a run (R174): the hosts have taken their last step and CSUM is quiescent. -/
def State.finished (s : State) : Prop := s.host = [] ∧ s.quiescent

/-- The values the hosts' reads returned, oldest first (R174). -/
def State.readValues (s : State) : List Word :=
  s.responses.filterMap fun
    | .value v => some v
    | .done => none
    | .busError => none

/-- What a run shows (R174): "the final ACC, RESULT, SRC, LEN and STATUS, and the sequence of values the host's reads
returned". -/
structure Observation where
  acc    : Word
  result : Word
  src    : Word
  len    : Word
  status : Word
  reads  : List Word
deriving DecidableEq, Repr

/-- The observation of a state (R174). -/
def State.observe (s : State) : Observation where
  acc := s.acc
  result := s.readReg .result
  src := s.src
  len := s.len
  status := s.statusWord
  reads := s.readValues

/-- `k` steps of the machine, as the host's interface runs them. -/
abbrev run (k : Nat) (s : State) : Host.Outcome State Fault Refusal := Sys2Proof.core.run k s

/-- It is a host's turn and its next operation is the register write `WR r, v`. -/
def State.hostWrites (s : State) (r : Reg) (v : Word) : Prop :=
  s.nextTurn = .host ∧ s.host.head? = some (hostWR s.params r v)

/-- It is a host's turn and its next operation issues the command `i`, CSUM being idle (R120). -/
def State.hostIssues (s : State) (i : Instr) : Prop :=
  s.busy = false ∧ s.hostWrites .cmd (encode i)

/-- It is the engine's turn and it is about to commit (R128). -/
def State.commits (s : State) : Prop :=
  s.nextTurn = .engine ∧ s.busy = true ∧ s.engBytes.length = s.engLen.toNat

/-- It is the engine's turn and the platform is about to answer its read with BusError (R129). -/
def State.aborts (s : State) : Prop :=
  s.nextTurn = .engine ∧ s.busy = true ∧ s.engBytes.length < s.engLen.toNat ∧
    s.memRead s.engineAddr = .busError

/-- Ordinary memory, outside CSUM's window, holds the bytes `m` from `a` upward and answers the engine with them
(20_memory.md R54, R60). -/
def State.holdsRange (s : State) (a : Word) (m : List Byte) : Prop :=
  ∀ i, ∀ h : i < m.length,
    s.mem.read (a + BitVec.ofNat 32 i).toNat = some m[i] ∧
      s.inWindow (a + BitVec.ofNat 32 i) = false ∧
      s.busErrs.contains (a + BitVec.ofNat 32 i).toNat = false

/-- A host operation that writes no byte of the `n` bytes from `a` upward (R60: "If no agent writes the range"). -/
def HostOp.sparesRange (op : HostOp) (a : Word) (n : Nat) : Prop :=
  match op with
  | .read _ _ => True
  | .poll _ _ _ => True
  | .write w x _ => ∀ y ∈ touched w x, ∀ i < n, y ≠ a + BitVec.ofNat 32 i
  | .store x _ => ∀ i < n, x ≠ a + BitVec.ofNat 32 i

end Sys2Proof.Machine
end

