-- ==== Sys2Proof/Certificates/Slice0/Obligations.lean ====
section
/-! DEFINITION. The statements for the provers, each from the rules its docstring names. An operation `op` offered
to a state is the hosts' next one at a host's turn (`State.offer`), so `step (s.offer op)` is that one atomic step
from `s`. The field `responses` is the model's own record of the port's answers (log 10); a statement of a rule that does
not say how the port answers leaves it open (`∃ rs`). `settledBytes` are the bytes a BUF's reads gave: `engBytes`, but for
bytes that a store raced (20_memory.md R60); EngineCommits and RacedReadGivesOldOrNew say so. -/

open Sys2Proof Sys2Proof.Machine

/-! ### Encoding -/

/-- 95_test_vectors.md section 2.2 (DC1 to DC14): the listed words decode as the table says. A sanity statement. -/
def Obligations.CommandWordsDecodeAsTabled : Prop :=
  decode 0x00000000#32 = some .nop ∧ decode 0x00000001#32 = some .clear ∧
  decode 0x00341202#32 = some (.add2 0x12#8 0x34#8) ∧ decode 0x00FFFF02#32 = some (.add2 0xFF#8 0xFF#8) ∧
  decode 0x00000002#32 = some (.add2 0x00#8 0x00#8) ∧ decode 0x00000103#32 = some (.add1 0x01#8) ∧
  decode 0x0000FF03#32 = some (.add1 0xFF#8) ∧ decode 0x00000004#32 = some .buf ∧
  decode 0x00000100#32 = none ∧ decode 0x01000002#32 = none ∧ decode 0x00010003#32 = none ∧
  decode 0x00000104#32 = none ∧ decode 0x00000005#32 = none ∧ decode 0xFFFFFFFF#32 = none

/-- R73, R76, R77: every command, with every value of its data bytes, is what its word decodes to, and a word that
decodes to a command is the word of that command, so no bit of a word is dropped. -/
def Obligations.DecodeInvertsEncode : Prop :=
  (∀ i : Instr, decode (encode i) = some i) ∧ (∀ (w : Word) (i : Instr), decode w = some i → encode i = w)

/-- R73: a word is a command exactly when `(w & mask) = match` for that command's row; exactly one row of the opcode
map accepts a legal word and none accepts another; the bit patterns put B1 above B0 above the opcode. -/
def Obligations.OpcodeMapSelectsCommand : Prop :=
  (∀ w : Word,
    (decode w = some .nop ↔ w &&& 0xFFFFFFFF#32 = 0x00000000#32) ∧
    (decode w = some .clear ↔ w &&& 0xFFFFFFFF#32 = 0x00000001#32) ∧
    ((∃ b0 b1, decode w = some (.add2 b0 b1)) ↔ w &&& 0xFF0000FF#32 = 0x00000002#32) ∧
    ((∃ b0, decode w = some (.add1 b0)) ↔ w &&& 0xFFFF00FF#32 = 0x00000003#32) ∧
    (decode w = some .buf ↔ w &&& 0xFFFFFFFF#32 = 0x00000004#32) ∧
    (decode w ≠ none → ∃ r, cmdRows.filter (fun r => r.accepts w) = [r]) ∧
    (decode w = none → cmdRows.filter (fun r => r.accepts w) = [])) ∧
  encode .nop = 0#32 ∧ encode .clear = 1#32 ∧ encode .buf = 4#32 ∧
  (∀ b0 b1 : Byte, encode (.add2 b0 b1) = (0#8 ++ b1 ++ b0 ++ 2#8 : BitVec 32)) ∧
  (∀ b0 : Byte, encode (.add1 b0) = (0#16 ++ b0 ++ 3#8 : BitVec 32))

/-- R76: the decoder, on every 32-bit word, read as a number. -/
def Obligations.DecoderIsTotalByNumber : Prop :=
  ∀ w : Word, decode w =
    if w.toNat = 0 then some .nop
    else if w.toNat = 1 then some .clear
    else if w.toNat % 256 = 2 ∧ w.toNat < 2 ^ 24 then
      some (.add2 (BitVec.ofNat 8 (w.toNat / 2 ^ 8 % 256)) (BitVec.ofNat 8 (w.toNat / 2 ^ 16 % 256)))
    else if w.toNat % 256 = 3 ∧ w.toNat < 2 ^ 16 then some (.add1 (BitVec.ofNat 8 (w.toNat / 2 ^ 8 % 256)))
    else if w.toNat = 4 then some .buf
    else none

/-- R74: the illegal words are exactly those with OP in 0x05 to 0xFF, or a legal OP with a nonzero bit in a field its
row requires to be zero; writing one to CMD while BUSY = 0 records ILLEGAL (code 1, unless an error is already
recorded) and changes nothing else of CSUM. -/
def Obligations.IllegalWordOnlyRecordsError : Prop :=
  (∀ w : Word, decode w = none ↔
    5 ≤ w.toNat % 256 ∨
    (w.toNat % 256 = 0 ∨ w.toNat % 256 = 1 ∨ w.toNat % 256 = 4) ∧ w.toNat / 2 ^ 8 ≠ 0 ∨
    w.toNat % 256 = 2 ∧ w.toNat / 2 ^ 24 ≠ 0 ∨
    w.toNat % 256 = 3 ∧ w.toNat / 2 ^ 16 ≠ 0) ∧
  ∀ (s : State) (w : Word), s.busy = false → decode w = none → ∃ rs,
    step (s.offer (hostWR s.params .cmd w)) =
      .next { s with
        err := true
        errcode := if s.err then s.errcode else 1#4
        responses := rs }

/-- R77: the assembler refuses an operand outside 0 to 255 and assembles every other command to its word. -/
def Obligations.AssemblerRefusesOutOfRange : Prop :=
  assemble .nop = some 0#32 ∧ assemble .clear = some 1#32 ∧ assemble .buf = some 4#32 ∧
  (∀ b0 b1 : Nat, assemble (.add2 b0 b1) =
    if b0 ≤ 255 ∧ b1 ≤ 255 then some (BitVec.ofNat 32 (b1 * 2 ^ 16 + b0 * 2 ^ 8 + 2)) else none) ∧
  (∀ b0 : Nat, assemble (.add1 b0) =
    if b0 ≤ 255 then some (BitVec.ofNat 32 (b0 * 2 ^ 8 + 3)) else none)

/-! ### The step and the register port -/

/-- R38, R120: at a host's turn whose next operation writes a word that decodes to a command to CMD's address, the step
is `exec` of that command at the state with the turn and the operation taken and the port's completion recorded (log 10).
So is the step of a state whose next command word is placed by `withFetchWord` (the model's own, log 8). -/
def Obligations.StepRunsDecodedCommand : Prop :=
  (∀ (s : State) (rest : List HostOp) (w : Word) (i : Instr),
    s.nextTurn = .host → s.host = .write .w32 (Params.base s.params + 4#32) w :: rest → decode w = some i →
    step s = exec i { s with
      sched := s.sched.tail
      host := rest
      responses := s.responses ++ [.done] }) ∧
  (∀ (s : State) (nbits w : Nat) (i : Instr), decodeTableWord nbits w = some i →
    step (s.withFetchWord nbits w) = exec i { s with responses := s.responses ++ [.done] })

/-- R120: a CMD write checks BUSY first, then decodes, then executes; NOP, CLEAR, ADD2 and ADD1 complete inside the
step, and BUF completes inside it for LEN = 0 or a range error and starts the engine otherwise. -/
def Obligations.IssueChecksBusyThenDecodes : Prop :=
  ∀ (s : State) (w : Word), ∃ rs,
    (s.busy = true → step (s.offer (hostWR s.params .cmd w)) =
      .next { s with err := true, errcode := if s.err then s.errcode else 2#4, responses := rs }) ∧
    (s.busy = false → decode w = none → step (s.offer (hostWR s.params .cmd w)) =
      .next { s with err := true, errcode := if s.err then s.errcode else 1#4, responses := rs }) ∧
    (∀ i, s.busy = false → decode w = some i →
      step (s.offer (hostWR s.params .cmd w)) = exec i { s with responses := rs } ∧
      (i ≠ .buf → ∃ t, exec i s = .next t ∧ t.busy = false) ∧
      (i = .buf → ∃ t, exec i s = .next t ∧
        (t.busy = true ↔ s.len ≠ 0#32 ∧ s.src.toNat + s.len.toNat ≤ 2 ^ 32)))

/-- R21 to R28, R35: what a host read of each register returns, in any state, busy or not; the read changes nothing
else. -/
def Obligations.HostReadsReturnRegisters : Prop :=
  ∀ (s : State) (r : Reg),
    step (s.offer (hostRD s.params r)) = .next { s with
      responses := s.responses ++ [.value (match r with
        | .id => if s.params.hostEndian = .little then 0x43530100#32 else 0x43530101#32
        | .cmd => 0#32
        | .status => BitVec.ofNat 32 (s.busy.toNat + 2 * s.ovf.toNat + 4 * s.tail.toNat + 8 * s.tailv.toNat +
            16 * s.err.toNat + 256 * s.errcode.toNat)
        | .acc => s.acc
        | .result => BitVec.ofNat 32 (0xFFFF - (fold s.acc % 65536).toNat)
        | .src => s.src
        | .len => s.len
        | .rsvd => 0#32)] }

/-- R53: while BUSY = 1 a write to CMD, ACC, SRC or LEN is ignored and raises BUSY instead; writes to STATUS, ID, RESULT
and the reserved offset behave as their rules say; every read is allowed and returns the committed ACC and its result. -/
def Obligations.BusyLocksOperandRegisters : Prop :=
  ∀ (s : State) (v : Word), s.busy = true →
    (∀ r ∈ [Reg.cmd, Reg.acc, Reg.src, Reg.len], ∃ rs, step (s.offer (hostWR s.params r v)) =
      .next { s with err := true, errcode := if s.err then s.errcode else 2#4, responses := rs }) ∧
    (∀ r ∈ [Reg.id, Reg.result, Reg.rsvd], ∃ rs, step (s.offer (hostWR s.params r v)) =
      .next { s with responses := rs }) ∧
    (∃ rs, step (s.offer (hostWR s.params .status v)) =
      .next { s with
        ovf := s.ovf && !v.getLsbD 1
        tailv := s.tailv && !v.getLsbD 3
        err := s.err && !v.getLsbD 4
        errcode := if v.getLsbD 4 then 0#4 else s.errcode
        responses := rs }) ∧
    (∀ r, step (s.offer (hostRD s.params r)) =
      .next { s with responses := s.responses ++ [.value (s.readReg r)] }) ∧
    s.readReg .acc = s.acc ∧ (s.readReg .result).toNat = (result s.acc).toNat

/-- R24, R26, R27 (idle part): while BUSY = 0 a host write of ACC, SRC or LEN writes that register and nothing else of
CSUM; no STATUS bit changes. -/
def Obligations.IdleRegisterWritesStore : Prop :=
  ∀ (s : State) (v : Word), s.busy = false →
    step (s.offer (hostWR s.params .acc v)) = .next { s with acc := v, responses := s.responses ++ [.done] } ∧
    step (s.offer (hostWR s.params .src v)) = .next { s with src := v, responses := s.responses ++ [.done] } ∧
    step (s.offer (hostWR s.params .len v)) = .next { s with len := v, responses := s.responses ++ [.done] }

/-- R22, R25, R35, R145: a host write to ID, RESULT or the reserved offset has no effect and raises no error, whatever
BUSY is. -/
def Obligations.ReadOnlyWritesIgnored : Prop :=
  ∀ (s : State) (v : Word) (r : Reg), r = .id ∨ r = .result ∨ r = .rsvd →
    step (s.offer (hostWR s.params r v)) = .next { s with responses := s.responses ++ [.done] }

/-- R34: a host write of STATUS clears OVF, TAILV, and ERR with ERRCODE by its bits 1, 3 and 4, whatever BUSY is, and
changes nothing else; a commit after it may set OVF and TAILV again. -/
def Obligations.StatusWriteOneToClear : Prop :=
  (∀ (s : State) (v : Word), ∃ rs, step (s.offer (hostWR s.params .status v)) = .next { s with
    ovf := if v.getLsbD 1 then false else s.ovf
    tailv := if v.getLsbD 3 then false else s.tailv
    err := if v.getLsbD 4 then false else s.err
    errcode := if v.getLsbD 4 then 0#4 else s.errcode
    responses := rs }) ∧
  ∀ s t : State, s.commits → step s = .next t →
    ((sumBytes s.params.hostEndian s.engAcc0 s.settledBytes).2 = true → t.ovf = true) ∧
    (s.engTail0 = true → t.tailv = true)

/-- R51: a register access is a 32-bit access at CSUM_BASE + 4k, k in 0 to 7, and nothing else; any other access at an
address of the window is answered with an error, returns no value and changes no CSUM state. (What a refused write that
reaches past the window does to platform memory, `mem` and `raceLog`, is left open.) -/
def Obligations.OtherWindowAccessesRefused : Prop :=
  ∀ (s : State) (w : Width) (a : Word),
    ((∃ r, s.select w a = .reg r) ↔ w = .w32 ∧ ∃ k < 8, a = Params.base s.params + BitVec.ofNat 32 (4 * k)) ∧
    ((Params.base s.params).toNat ≤ a.toNat → a.toNat < (Params.base s.params).toNat + 0x20 →
      (w ≠ .w32 ∨ a.toNat % 4 ≠ 0) →
      step (s.offer (.read w a)) = .next { s with responses := s.responses ++ [.busError] } ∧
      ∀ v, ∃ t, step (s.offer (.write w a v)) = .next t ∧
        t = { s with responses := s.responses ++ [.busError], mem := t.mem, raceLog := t.raceLog })

/-- The model's reading of R51 for an access that touches the window from outside (log 11): it is refused too, and a
write makes the bytes it touches outside the window unknown, where memory is in its canonical form, and changes no other
byte of memory. -/
def Obligations.AccessesTouchingWindowRefused : Prop :=
  ∀ (s : State) (w : Width) (a : Word), (∃ y ∈ touched w a, s.inWindow y = true) → s.inWindow a = false →
    step (s.offer (.read w a)) = .next { s with responses := s.responses ++ [.busError] } ∧
    ∀ v, ∃ t, step (s.offer (.write w a v)) = .next t ∧
      t = { s with responses := s.responses ++ [.busError], mem := t.mem, raceLog := t.raceLog } ∧
      (s.mem.wf = true → ∀ y ∈ touched w a, s.inWindow y = false → Memory.read t.mem y.toNat = none) ∧
      (∀ x, (∀ y ∈ touched w a, s.inWindow y = false → y.toNat ≠ x) → Memory.read t.mem x = Memory.read s.mem x)

/-- R78: a POLL is one read of its register a turn; it is done when the value meets its condition and stays the hosts'
next operation otherwise. -/
def Obligations.PollRepeatsUntilMet : Prop :=
  ∀ (s : State) (r : Reg) (mask v : Word),
    (s.readReg r &&& mask = v → step (s.offer (.poll r mask v)) =
      .next { s with responses := s.responses ++ [.value (s.readReg r)] }) ∧
    (s.readReg r &&& mask ≠ v → step (s.offer (.poll r mask v)) =
      .next { s with
        host := .poll r mask v :: s.host
        responses := s.responses ++ [.value (s.readReg r)] })

/-! ### Errors -/

/-- R141: `raise Error(code)` records the first error and changes nothing where one is recorded. -/
def Obligations.RaiseKeepsFirstError : Prop :=
  ∀ (s : State) (c : ErrCode),
    (s.err = false → s.raise c = { s with err := true, errcode := c.code }) ∧ (s.err = true → s.raise c = s)

/-- R143: a recorded error keeps its code at every step of every agent, CLEAR included, but for a host STATUS write
with bit 4 = 1 and reset, which clear ERR and ERRCODE together. -/
def Obligations.ErrorClearedOnlyByStatusOrReset : Prop :=
  ∀ s t : State, step s = .next t → s.err = true →
    (t.err = true ∧ t.errcode = s.errcode ∨ t.err = false ∧ t.errcode = 0#4) ∧
    (t.err = false ↔ s.nextTurn = .reset ∨ ∃ v, s.hostWrites .status v ∧ v.getLsbD 4 = true)

/-- R144: with ERR = 1 a command executes exactly as it would with ERR = 0, and the record stays. -/
def Obligations.ErrorsDoNotBlockCommands : Prop :=
  ∀ (i : Instr) (s : State) (c : BitVec 4), s.err = false → ∃ t, exec i s = .next t ∧
    exec i { s with err := true, errcode := c } = .next { t with err := true, errcode := c }

/-- R146: within one CMD write the order is BUSY, ILLEGAL, RANGE, and the first that applies is the only one raised;
an engine step raises BUSERR or nothing, and no other step raises BUSERR. -/
def Obligations.ErrorPriority : Prop :=
  (∀ (s : State) (w : Word), s.err = false → ∃ t, step (s.offer (hostWR s.params .cmd w)) = .next t ∧
    (t.err, t.errcode) =
      if s.busy then (true, 2#4)
      else if decode w = none then (true, 1#4)
      else if w = 4#32 ∧ s.src.toNat + s.len.toNat > 2 ^ 32 then (true, 3#4)
      else (false, s.errcode)) ∧
  (∀ s : State, s.err = false → ∃ t, step (s.grant .engine) = .next t ∧
    (t.err = true → t.errcode = 4#4)) ∧
  (∀ s t : State, step s = .next t → s.err = false → t.err = true → (t.errcode = 4#4 ↔ s.aborts))

/-! ### The flags over every step of every agent -/

/-- R29: BUSY is set by the acceptance of a BUF with LEN > 0 and a legal range and by nothing else, and cleared by the
engine's commit or abort or by reset and by nothing else. -/
def Obligations.BusyExactlyWhileBufInFlight : Prop :=
  ∀ s t : State, step s = .next t →
    (s.busy = false → (t.busy = true ↔
      s.hostIssues .buf ∧ 0 < s.len.toNat ∧ s.src.toNat + s.len.toNat ≤ 2 ^ 32)) ∧
    (s.busy = true → (t.busy = false ↔ s.nextTurn = .reset ∨ s.commits ∨ s.aborts))

/-- R30: OVF is set by an ADD2, an ADD1 or the commit of a BUF one of whose signed additions overflows, and cleared
only by CLEAR, a STATUS write with bit 1 = 1, or reset. -/
def Obligations.OvfSetAndClearedOnlyAsStated : Prop :=
  ∀ s t : State, step s = .next t →
    (t.ovf = true ↔
      (∃ b0 b1, s.hostIssues (.add2 b0 b1) ∧
        2 ^ 31 ≤ s.acc.toInt + (wordOf s.params.hostEndian b0 b1).toNat) ∨
      (∃ b0, s.hostIssues (.add1 b0) ∧ 2 ^ 31 ≤ s.acc.toInt + b0.toNat) ∨
      (s.commits ∧ (sumBytes s.params.hostEndian s.engAcc0 s.settledBytes).2 = true) ∨
      (s.ovf = true ∧ ¬ (s.hostIssues .clear ∨ (∃ v, s.hostWrites .status v ∧ v.getLsbD 1 = true) ∨
        s.nextTurn = .reset)))

/-- R31: TAIL is set by ADD1 and by the commit of a BUF whose LEN is odd, and cleared only by CLEAR and by reset. -/
def Obligations.TailSetAndClearedOnlyAsStated : Prop :=
  ∀ s t : State, step s = .next t →
    (t.tail = true ↔
      (∃ b0, s.hostIssues (.add1 b0)) ∨ (s.commits ∧ s.engLen.toNat % 2 = 1) ∨
      (s.tail = true ∧ ¬ (s.hostIssues .clear ∨ s.nextTurn = .reset)))

/-- R32: TAILV is set by an ADD2 or ADD1 executed while TAIL = 1 and by the commit of a BUF accepted while TAIL = 1, and
cleared only by CLEAR, a STATUS write with bit 3 = 1, or reset. -/
def Obligations.TailvSetAndClearedOnlyAsStated : Prop :=
  ∀ s t : State, step s = .next t →
    (t.tailv = true ↔
      (s.tail = true ∧ ((∃ b0 b1, s.hostIssues (.add2 b0 b1)) ∨ ∃ b0, s.hostIssues (.add1 b0))) ∨
      (s.commits ∧ s.engTail0 = true) ∨
      (s.tailv = true ∧ ¬ (s.hostIssues .clear ∨ (∃ v, s.hostWrites .status v ∧ v.getLsbD 3 = true) ∨
        s.nextTurn = .reset)))

/-- R10, R24, R26, R27, R53: over every step of every agent, ACC changes only by a host write of it at an idle CSUM, by
CLEAR, ADD2 or ADD1, by the commit of a BUF, or by reset, each giving the value its rule says; SRC and LEN change only by
their own host writes at an idle CSUM, or by reset. -/
def Obligations.AccSrcLenChangedOnlyAsStated : Prop :=
  ∀ s t : State, step s = .next t →
    (t.acc ≠ s.acc →
      (s.busy = false ∧ ∃ v, s.hostWrites .acc v ∧ t.acc = v) ∨
      (s.hostIssues .clear ∧ t.acc = 0#32) ∨
      (∃ b0 b1, s.hostIssues (.add2 b0 b1) ∧
        t.acc = BitVec.ofNat 32 (s.acc.toNat + (wordOf s.params.hostEndian b0 b1).toNat)) ∨
      (∃ b0, s.hostIssues (.add1 b0) ∧ t.acc = BitVec.ofNat 32 (s.acc.toNat + b0.toNat)) ∨
      (s.commits ∧ t.acc = (sumBytes s.params.hostEndian s.engAcc0 s.settledBytes).1) ∨
      (s.nextTurn = .reset ∧ t.acc = 0#32)) ∧
    (t.src ≠ s.src →
      (s.busy = false ∧ ∃ v, s.hostWrites .src v ∧ t.src = v) ∨ (s.nextTurn = .reset ∧ t.src = 0#32)) ∧
    (t.len ≠ s.len →
      (s.busy = false ∧ ∃ v, s.hostWrites .len v ∧ t.len = v) ∨ (s.nextTurn = .reset ∧ t.len = 0#32))

/-! ### The commands -/

/-- R121: NOP changes nothing; while BUSY = 1 it only raises BUSY; a nonzero word with OP = 0 is no NOP. -/
def Obligations.NopResult : Prop :=
  encode .nop = 0x00000000#32 ∧
  (∀ w : Word, w.toNat % 256 = 0 → w ≠ 0#32 → decode w = none) ∧
  ∀ s : State,
    (s.busy = false → exec .nop s = .next s) ∧
    (s.busy = true → exec .nop s = .next { s with err := true, errcode := if s.err then s.errcode else 2#4 })

/-- R122: CLEAR sets ACC, OVF, TAIL and TAILV to 0 and changes nothing else: ERR, ERRCODE, SRC and LEN are kept. -/
def Obligations.ClearResult : Prop :=
  encode .clear = 0x00000001#32 ∧
  ∀ s : State,
    (s.busy = false → exec .clear s = .next { s with acc := 0#32, ovf := false, tail := false, tailv := false }) ∧
    (s.busy = true → exec .clear s = .next { s with err := true, errcode := if s.err then s.errcode else 2#4 })

/-- R123: ADD2 adds the word of its two bytes in HOST_ENDIAN order, zero-extended, to ACC modulo 2^32; it sets OVF when
the signed sum reaches 2^31 and TAILV when TAIL = 1, and changes nothing else; a nonzero RSVD makes the word illegal. -/
def Obligations.Add2Result : Prop :=
  (∀ b0 b1 : Byte, (encode (.add2 b0 b1)).toNat = b1.toNat * 2 ^ 16 + b0.toNat * 2 ^ 8 + 2) ∧
  (∀ w : Word, w.toNat % 256 = 2 → 2 ^ 24 ≤ w.toNat → decode w = none) ∧
  ∀ (s : State) (b0 b1 : Byte) (v : Nat),
    v = (match s.params.hostEndian with
      | .little => b0.toNat + 256 * b1.toNat
      | .big => 256 * b0.toNat + b1.toNat) →
    (s.busy = false → exec (.add2 b0 b1) s = .next { s with
      acc := BitVec.ofNat 32 (s.acc.toNat + v)
      ovf := s.ovf || decide (2 ^ 31 ≤ s.acc.toInt + v)
      tailv := s.tailv || s.tail }) ∧
    (s.busy = true → exec (.add2 b0 b1) s =
      .next { s with err := true, errcode := if s.err then s.errcode else 2#4 })

/-- R124: ADD1 adds its byte, not shifted under either HOST_ENDIAN, to ACC modulo 2^32; it sets OVF when the signed sum
reaches 2^31, TAILV when TAIL was 1, and TAIL; a nonzero B1 or RSVD makes the word illegal. -/
def Obligations.Add1Result : Prop :=
  (∀ b0 : Byte, (encode (.add1 b0)).toNat = b0.toNat * 2 ^ 8 + 3) ∧
  (∀ w : Word, w.toNat % 256 = 3 → 2 ^ 16 ≤ w.toNat → decode w = none) ∧
  ∀ (s : State) (b0 : Byte),
    (s.busy = false → exec (.add1 b0) s = .next { s with
      acc := BitVec.ofNat 32 (s.acc.toNat + b0.toNat)
      ovf := s.ovf || decide (2 ^ 31 ≤ s.acc.toInt + b0.toNat)
      tailv := s.tailv || s.tail
      tail := true }) ∧
    (s.busy = true → exec (.add1 b0) s =
      .next { s with err := true, errcode := if s.err then s.errcode else 2#4 })

/-- R125, with the start of R126: a word with OP = 0x04 and other bits set is no BUF; BUF with `SRC + LEN > 2^32` only raises RANGE; with a legal range and LEN = 0 it does
nothing; else it starts the engine from SRC, LEN, ACC and TAIL, with no byte read, and BUSY is 1. -/
def Obligations.BufAcceptance : Prop :=
  encode .buf = 0x00000004#32 ∧
  (∀ w : Word, w.toNat % 256 = 4 → w ≠ 4#32 → decode w = none) ∧
  ∀ s : State,
    (s.busy = true → exec .buf s = .next { s with err := true, errcode := if s.err then s.errcode else 2#4 }) ∧
    (s.busy = false → s.src.toNat + s.len.toNat > 2 ^ 32 →
      exec .buf s = .next { s with err := true, errcode := if s.err then s.errcode else 3#4 }) ∧
    (s.busy = false → s.src.toNat + s.len.toNat ≤ 2 ^ 32 → s.len = 0#32 → exec .buf s = .next s) ∧
    (s.busy = false → s.src.toNat + s.len.toNat ≤ 2 ^ 32 → s.len ≠ 0#32 →
      exec .buf s = .next { s with
        engSrc := s.src
        engLen := s.len
        engAcc0 := s.acc
        engTail0 := s.tail
        engBytes := []
        busy := true
        raceLog := [] })

/-- R121 to R126: the frame of the five commands. No command changes SRC, LEN, the configuration, any byte of memory,
what the platform answers, the reads performed, or what is pending; only BUF changes BUSY and the engine's state; NOP and
BUF keep ACC, OVF, TAIL and TAILV; ADD2 keeps TAIL; ERR and ERRCODE change only by BUSY, or by BUF's RANGE. -/
def Obligations.CommandFrame : Prop :=
  ∀ (i : Instr) (s t : State), exec i s = .next t →
    (t.src = s.src ∧ t.len = s.len ∧ t.params = s.params ∧ t.busErrs = s.busErrs ∧
      t.engineReads = s.engineReads ∧ t.host = s.host ∧ t.sched = s.sched ∧ t.responses = s.responses) ∧
    (∀ a, Memory.read t.mem a = Memory.read s.mem a) ∧
    (i ≠ .buf → t.busy = s.busy ∧ t.engSrc = s.engSrc ∧ t.engLen = s.engLen ∧ t.engAcc0 = s.engAcc0 ∧
      t.engTail0 = s.engTail0 ∧ t.engBytes = s.engBytes ∧ t.raceLog = s.raceLog) ∧
    (i = .nop ∨ i = .buf → t.acc = s.acc ∧ t.ovf = s.ovf ∧ t.tail = s.tail ∧ t.tailv = s.tailv) ∧
    (∀ b0 b1, i = .add2 b0 b1 → t.tail = s.tail) ∧
    (s.busy = false → ¬ (i = .buf ∧ s.src.toNat + s.len.toNat > 2 ^ 32) →
      t.err = s.err ∧ t.errcode = s.errcode)

/-! ### The engine -/

/-- R127, R129: the engine's read step reads the one byte at `eng_src + i`, i being the number of bytes read, and takes
it; or, answered with BusError, records BUSERR and clears BUSY with ACC, OVF, TAIL and TAILV unchanged; and with BUSY = 0
the engine's turn changes nothing, so that no further byte is read. -/
def Obligations.EngineReadTakesOrAborts : Prop :=
  (∀ (s : State) (a : Word), s.busy = true → s.engBytes.length < s.engLen.toNat →
    a = s.engSrc + BitVec.ofNat 32 s.engBytes.length →
    (∀ b, s.memRead a = .byte b → step (s.grant .engine) = .next { s with
      engBytes := s.engBytes ++ [b]
      engineReads := s.engineReads ++ [a] }) ∧
    (s.memRead a = .busError → step (s.grant .engine) = .next { s with
      err := true
      errcode := if s.err then s.errcode else 4#4
      busy := false
      engineReads := s.engineReads ++ [a] })) ∧
  ∀ s : State, s.busy = false → step (s.grant .engine) = .next s

/-- R128: when `eng_len` bytes are read, none of them raced by a store since the acceptance (R60; a raced byte is
RacedReadGivesOldOrNew's), the engine commits: ACC gets the sum of the bytes from the ACC at acceptance, OVF and TAILV are
ORed in, TAIL is set for an odd length, and BUSY is cleared; nothing else changes. -/
def Obligations.EngineCommits : Prop :=
  ∀ s : State, s.busy = true → s.engBytes.length = s.engLen.toNat →
    (∀ i < s.engLen.toNat, ∀ c ∈ s.raceLog, c.1 ≠ (s.engSrc + BitVec.ofNat 32 i).toNat) →
    step (s.grant .engine) = .next { s with
      acc := (sumBytes s.params.hostEndian s.engAcc0 s.engBytes).1
      ovf := s.ovf || (sumBytes s.params.hostEndian s.engAcc0 s.engBytes).2
      tailv := s.tailv || s.engTail0
      tail := s.tail || decide (s.engLen.toNat % 2 = 1)
      busy := false }

/-- R126: while a BUF is in flight ACC, SRC, LEN, TAIL and the latched operands keep their values, OVF and TAILV change
only by a STATUS write, `eng_bytes` only grows, and a host's step never ends the BUF or takes a byte from it. -/
def Obligations.BufInFlightFreezesOperands : Prop :=
  ∀ s t : State, step s = .next t → s.busy = true →
    (t.busy = true →
      t.acc = s.acc ∧ t.src = s.src ∧ t.len = s.len ∧ t.tail = s.tail ∧ t.engSrc = s.engSrc ∧
      t.engLen = s.engLen ∧ t.engAcc0 = s.engAcc0 ∧ t.engTail0 = s.engTail0 ∧
      (t.ovf = s.ovf ∧ t.tailv = s.tailv ∨ ∃ v, s.hostWrites .status v ∧
        t.ovf = (s.ovf && !v.getLsbD 1) ∧ t.tailv = (s.tailv && !v.getLsbD 3)) ∧
      (t.engBytes = s.engBytes ∨ ∃ b, t.engBytes = s.engBytes ++ [b])) ∧
    (s.nextTurn = .host → t.busy = true ∧ t.engBytes = s.engBytes)

/-- R132 (under the model's default schedule, log 7): left to the engine, a BUF in flight ends after at most one step for each byte still to read and the commit, in
every state that meets the invariant. -/
def Obligations.BufEndsWithinItsBytes : Prop :=
  ∀ s : State, s.Inv → s.busy = true → s.sched = [] →
    ∃ k t, k ≤ s.engLen.toNat - s.engBytes.length + 1 ∧ run k s = .next t ∧ t.busy = false

/-- R60, R63 (under the model's default schedule, log 7): an accepted BUF reads `eng_src + i` for i = 0, 1, … in that order, each once, and no other address; all
`eng_len` of them unless a read is answered with an error. -/
def Obligations.EngineReadsEachAddressOnceInOrder : Prop :=
  ∀ (s t : State) (k : Nat), s.Inv → s.busy = true → s.engBytes = [] → s.sched = [] → s.host = [] →
    run k s = .next t →
    ∃ m, m ≤ k ∧ m ≤ s.engLen.toNat ∧
      t.engineReads = s.engineReads ++ (List.range m).map (fun i => s.engSrc + BitVec.ofNat 32 i) ∧
      (t.busy = true → m = k) ∧
      (s.err = false → t.err = false → t.busy = false → m = s.engLen.toNat)

/-- R54, R55, R60, R166: the engine's read of ordinary memory that nothing races answers the byte it holds; after one
store to it during the BUF the read answers the old or the new byte, which of them being free (log 6). A store AFTER the
read is a race too, settled at the commit (log 27): in every state the commit sums one byte for each byte read, which is
the byte read or one that a store since the acceptance found or left at its address (any byte, where the race log does not
know it); so one store to an address already read leaves the byte summed for it the byte read, the old or the new byte.
Every byte that nothing raced is summed as read. -/
def Obligations.RacedReadGivesOldOrNew : Prop :=
  (∀ (s : State) (a : Word) (old new : Byte), s.busy = true → s.mem.read a.toNat = some old →
    (∀ c ∈ s.raceLog, c.1 ≠ a.toNat) → s.inWindow a = false → s.busErrs.contains a.toNat = false →
    s.memRead a = .byte old ∧
    ∃ t, step (s.offer (.store a new)) = .next t ∧
      (t.memRead a = .byte old ∨ t.memRead a = .byte new)) ∧
  (∀ s : State, s.busy = true → s.engBytes.length = s.engLen.toNat →
    ∃ bs : List Byte, bs = s.settledBytes ∧ bs.length = s.engBytes.length ∧
      step (s.grant .engine) = .next { s with
        acc := (sumBytes s.params.hostEndian s.engAcc0 bs).1
        ovf := s.ovf || (sumBytes s.params.hostEndian s.engAcc0 bs).2
        tailv := s.tailv || s.engTail0
        tail := s.tail || decide (s.engLen.toNat % 2 = 1)
        busy := false } ∧
      ∀ i < bs.length, bs[i]? = s.engBytes[i]? ∨
        ∃ c ∈ s.raceLog, c.1 = (s.engSrc + BitVec.ofNat 32 i).toNat ∧ (c.2 = none ∨ c.2 = bs[i]?)) ∧
  (∀ (s : State) (i : Nat) (old new b : Byte), s.busy = true → s.engBytes[i]? = some b →
    s.mem.read (s.engSrc + BitVec.ofNat 32 i).toNat = some old →
    (∀ c ∈ s.raceLog, c.1 ≠ (s.engSrc + BitVec.ofNat 32 i).toNat) →
    s.inWindow (s.engSrc + BitVec.ofNat 32 i) = false →
    ∃ t, step (s.offer (.store (s.engSrc + BitVec.ofNat 32 i) new)) = .next t ∧ t.engBytes = s.engBytes ∧
      (t.settledBytes[i]? = some b ∨ t.settledBytes[i]? = some old ∨ t.settledBytes[i]? = some new))

/-- R130 (under the model's default schedule, log 7): CLEAR then BUF over n bytes of ordinary memory leaves ACC and OVF
equal to the source's sum from 0, RESULT reading its checksum, and TAIL telling whether n is odd. -/
def Obligations.ClearThenBufComputesChecksum : Prop :=
  ∀ (s : State) (m : List Byte) (rest : List HostOp), s.busy = false → s.sched = [] →
    s.host = hostCMD s.params .clear :: hostCMD s.params .buf :: rest →
    m.length = s.len.toNat → s.src.toNat + s.len.toNat ≤ 2 ^ 32 → s.holdsRange s.src m →
    ∃ t, run (if m = [] then 2 else m.length + 3) s = .next t ∧
      t.acc = (sumBytes s.params.hostEndian 0#32 m).1 ∧
      t.ovf = (sumBytes s.params.hostEndian 0#32 m).2 ∧
      t.readReg .result = (checksum s.params.hostEndian m).zeroExtend 32 ∧
      t.busy = false ∧ t.tail = decide (m.length % 2 = 1) ∧ t.tailv = false ∧
      t.err = s.err ∧ t.errcode = s.errcode ∧ t.src = s.src ∧ t.len = s.len ∧ t.mem = s.mem ∧ t.host = rest

/-- R60, R128, R130: under EVERY schedule of engine and host steps, and whatever the hosts do short of writing the range
or a reset, the step that ends a BUF over ordinary memory leaves in ACC the sum of the bytes the range held at
acceptance, from the ACC at acceptance. -/
def Obligations.BufCommitsSumUnderAnyInterleaving : Prop :=
  ∀ (s t u : State) (m : List Byte) (k : Nat), s.Inv → s.busy = true → s.engBytes = [] → s.raceLog = [] →
    m.length = s.engLen.toNat → s.holdsRange s.engSrc m →
    (∀ op ∈ s.host, op.sparesRange s.engSrc m.length) → Turn.reset ∉ s.sched →
    run k s = .next t → (∀ j ≤ k, ∀ x, run j s = .next x → x.busy = true) →
    step t = .next u → u.busy = false →
    u.acc = (sumBytes s.params.hostEndian s.engAcc0 m).1 ∧
    u.ovf = (t.ovf || (sumBytes s.params.hostEndian s.engAcc0 m).2) ∧
    u.tailv = (t.tailv || s.tail) ∧ u.tail = (s.tail || decide (m.length % 2 = 1)) ∧
    u.err = t.err ∧ u.errcode = t.errcode

/-- R131, R79 (under the model's default schedule, log 7): CLEAR, the ADD2 of each pair of bytes in order, and the ADD1 of
a last odd byte leave what BUF leaves; the RESULT read after them is the checksum of the bytes (pseudo-instruction
CSUMW). -/
def Obligations.InlineBytesComputeChecksum : Prop :=
  ∀ (s : State) (bytes : List Byte), s.busy = false → s.sched = [] → s.host = csumwOps s.params bytes →
    ∃ t, run ((addCommands bytes).length + 2) s = .next t ∧ t.finished ∧
      t.acc = (sumBytes s.params.hostEndian 0#32 bytes).1 ∧
      t.ovf = (sumBytes s.params.hostEndian 0#32 bytes).2 ∧
      t.tail = decide (bytes.length % 2 = 1) ∧ t.tailv = false ∧
      t.readReg .result = (checksum s.params.hostEndian bytes).zeroExtend 32 ∧
      t.readValues = s.readValues ++ [(checksum s.params.hostEndian bytes).zeroExtend 32]

/-- R79 (under the model's default schedule, log 7): the pseudo-instruction CSUM over ordinary memory ends with no error,
and the last value read is the checksum of the range. -/
def Obligations.CsumPseudoInstructionReadsChecksum : Prop :=
  ∀ (s : State) (src len : Word) (m : List Byte), s.busy = false → s.err = false → s.sched = [] →
    s.host = csumOps s.params src len → m.length = len.toNat → src.toNat + len.toNat ≤ 2 ^ 32 →
    s.holdsRange src m →
    ∃ t status, run (if m = [] then 6 else m.length + 7) s = .next t ∧ t.finished ∧ t.err = false ∧
      t.readValues = s.readValues ++ [status, (checksum s.params.hostEndian m).zeroExtend 32]

/-! ### The arithmetic -/

/-- R101, R102: the word of two bytes in each byte order, and the trailing byte, as unsigned numbers, added to the
accumulator as such. -/
def Obligations.WordAndTailAreUnsigned : Prop :=
  ∀ b0 b1 : Byte,
    (wordOf .little b0 b1).toNat = b0.toNat + 256 * b1.toNat ∧
    (wordOf .big b0 b1).toNat = 256 * b0.toNat + b1.toNat ∧
    (tailOf b0).toNat = b0.toNat ∧
    ∀ acc : Word,
      (accAdd acc (wordOf .little b0 b1)).1.toNat = (acc.toNat + (b0.toNat + 256 * b1.toNat)) % 2 ^ 32 ∧
      (accAdd acc (wordOf .big b0 b1)).1.toNat = (acc.toNat + (256 * b0.toNat + b1.toNat)) % 2 ^ 32 ∧
      (accAdd acc (tailOf b0)).1.toNat = (acc.toNat + b0.toNat) % 2 ^ 32

/-- R103: the addition wraps modulo 2^32; it overflows exactly when the accumulator is not negative and the sum reaches
2^31, and then the result has bit 31 set. -/
def Obligations.AddWrapsAndReportsOverflow : Prop :=
  ∀ (acc : Word) (v : Half),
    (accAdd acc v).1.toNat = (acc.toNat + v.toNat) % 2 ^ 32 ∧
    ((accAdd acc v).2 = true ↔ acc.toInt + v.toNat > 2 ^ 31 - 1) ∧
    ((accAdd acc v).2 = true ↔ 0 ≤ acc.toInt ∧ 2 ^ 31 ≤ acc.toInt + v.toNat) ∧
    ((accAdd acc v).2 = true → (accAdd acc v).1.getLsbD 31 = true)

/-- R104: the double fold of the signed accumulator, by floor division, and the bounds of both its halves on each side of
zero; on the non-negative side a logical shift gives the same. -/
def Obligations.FoldStaysInBounds : Prop :=
  ∀ (acc : Word) (n a1 : Int), n = acc.toInt → a1 = n / 65536 + n % 65536 →
    fold acc = a1 + a1 / 65536 ∧
    (0 ≤ n → 0 ≤ a1 ∧ a1 ≤ 0x17FFE ∧ 0 ≤ fold acc ∧ fold acc ≤ 0x17FFF ∧
      a1 = (acc.toNat >>> 16 : Nat) + (acc.toNat % 65536 : Nat)) ∧
    (n < 0 → -0x8000 ≤ n / 65536 ∧ n / 65536 ≤ -1 ∧ -0x8000 ≤ a1 ∧ a1 ≤ 0xFFFE ∧
      fold acc = (if a1 < 0 then a1 - 1 else a1) ∧ -0x8001 ≤ fold acc ∧ fold acc ≤ 0xFFFE)

/-- R105, R106: the result is 0xFFFF minus the folded integer modulo 2^16, for every one of the 2^32 patterns. -/
def Obligations.ResultComplementsFold : Prop :=
  (∀ a2 : Int, (complement16 a2).toNat = 0xFFFF - (a2 % 65536).toNat) ∧
  ∀ acc : Word, (result acc).toNat = 0xFFFF - (fold acc % 65536).toNat

/-- R111: on a non-negative accumulator the fold is the end-around-carry residue and the result its complement. -/
def Obligations.FoldIsEndAroundCarry : Prop :=
  ∀ (acc : Word) (f : Nat), 0 ≤ acc.toInt → f = (if acc = 0#32 then 0 else (acc.toNat - 1) % 0xFFFF + 1) →
    fold acc % 65536 = f ∧ (result acc).toNat = 0xFFFF - f

/-- R108: the sum takes words while two bytes remain and then a single trailing byte, in HOST_ENDIAN order, wrapping; the
overflow of the whole is the OR of its additions'. -/
def Obligations.SumTakesWordsThenTail : Prop :=
  ∀ (e : Endian) (acc : Word) (b0 b1 : Byte) (rest : List Byte),
    sumBytes e acc [] = (acc, false) ∧
    sumBytes e acc [b0] = (BitVec.ofNat 32 (acc.toNat + b0.toNat), decide (2 ^ 31 ≤ acc.toInt + b0.toNat)) ∧
    sumBytes e acc (b0 :: b1 :: rest) =
      ((sumBytes e (BitVec.ofNat 32 (acc.toNat + (wordOf e b0 b1).toNat)) rest).1,
        decide (2 ^ 31 ≤ acc.toInt + (wordOf e b0 b1).toNat) ||
          (sumBytes e (BitVec.ofNat 32 (acc.toNat + (wordOf e b0 b1).toNat)) rest).2) ∧
    checksum e rest = result (sumBytes e 0#32 rest).1

/-- R110: from accumulator 0 no sum of at most 65537 bytes overflows or passes 0x7FFF80FF, which is reached; 65538 bytes of 0xFF wrap to
0x80007FFF with overflow, and their checksum is 0x0001. -/
def Obligations.NoOverflowUpTo65537Bytes : Prop :=
  ∀ e : Endian,
    (∀ bytes : List Byte, bytes.length ≤ 65537 →
      (sumBytes e 0#32 bytes).2 = false ∧ (sumBytes e 0#32 bytes).1.toNat ≤ 0x7FFF80FF) ∧
    sumBytes e 0#32 (List.replicate 65537 0xFF#8) = (0x7FFF80FF#32, false) ∧
    sumBytes e 0#32 (List.replicate 65538 0xFF#8) = (0x80007FFF#32, true) ∧
    checksum e (List.replicate 65538 0xFF#8) = 0x0001#16

/-- R112: with a zeroed two-byte field at an even offset of at most 65537 bytes, storing the checksum's two bytes in
HOST_ENDIAN order in the field makes the checksum 0; `halfBytes` are those bytes. At an odd offset it can fail. -/
def Obligations.ChecksumFieldSelfCheck : Prop :=
  (∀ (e : Endian) (pre post : List Byte) (c0 c1 : Byte), pre.length % 2 = 0 →
    pre.length + 2 + post.length ≤ 65537 →
    wordOf e c0 c1 = checksum e (pre ++ [0#8, 0#8] ++ post) →
    checksum e (pre ++ [c0, c1] ++ post) = 0#16) ∧
  (∀ (e : Endian) (c : Half), ∃ c0 c1, halfBytes e c = [c0, c1] ∧ wordOf e c0 c1 = c) ∧
  (∃ (e : Endian) (pre post : List Byte), pre.length % 2 = 1 ∧ pre.length + 2 + post.length ≤ 65537 ∧
    checksum e (pre ++ halfBytes e (checksum e (pre ++ [0#8, 0#8] ++ post)) ++ post) ≠ 0#16)

/-- R113: for an even number of bytes, at most 65536, the checksums under the two byte orders are byte swaps of each
other; for an odd number they need not be, and the order of the bytes matters. -/
def Obligations.ByteOrdersSwapChecksum : Prop :=
  (∀ bytes : List Byte, bytes.length % 2 = 0 → bytes.length ≤ 65536 →
    checksum .big bytes = bswap16 (checksum .little bytes)) ∧
  checksum .little [0xFF#8, 0x00#8, 0xFF#8] = 0xFE01#16 ∧ checksum .big [0xFF#8, 0x00#8, 0xFF#8] = 0x0000#16 ∧
  checksum .little [0x01#8, 0x02#8] = 0xFDFE#16 ∧ checksum .little [0x02#8, 0x01#8] = 0xFEFD#16

/-- R114: a byte sequence may be summed in two parts split at an even position, the overflow being the OR of the parts';
at an odd position the parts do not give the whole. -/
def Obligations.SumSplitsAtEvenPositions : Prop :=
  (∀ (e : Endian) (acc : Word) (first second : List Byte), first.length % 2 = 0 →
    sumBytes e acc (first ++ second) =
      ((sumBytes e (sumBytes e acc first).1 second).1,
        (sumBytes e acc first).2 || (sumBytes e (sumBytes e acc first).1 second).2)) ∧
  (∀ e : Endian, ∃ (first second : List Byte), first.length % 2 = 1 ∧
    (sumBytes e 0#32 (first ++ second)).1 ≠ (sumBytes e (sumBytes e 0#32 first).1 second).1)

/-! ### Reset and memory -/

/-- R160, R161: reset, in any state, is one step that sets every register and flag to 0; a BUF in flight is abandoned with
no commit and no error, the reads it performed stay performed, and the configuration and ID are kept. (The engine's
meaningless state after it is the model's, log 3, and is not stated.) -/
def Obligations.ResetClearsEverything : Prop :=
  ∀ s : State, ∃ t, step (s.grant .reset) = .next t ∧ t.afterReset ∧
    t.params = s.params ∧ t.readReg .id = s.readReg .id ∧ t.engineReads = s.engineReads

/-- R42: after reset, in every configuration, every register and flag is 0, STATUS reads 0, RESULT 0xFFFF, and ID its
constant. -/
def Obligations.ResetStateReads : Prop :=
  ∀ p : Params, (State.resetWith p).afterReset ∧ (State.resetWith p).readReg .status = 0#32 ∧
    (State.resetWith p).readReg .result = 0x0000FFFF#32 ∧
    (State.resetWith p).readReg .id = (if p.hostEndian = .little then 0x43530100#32 else 0x43530101#32) ∧
    (State.resetWith p).params = p

/-- R41, R161: no step of any agent changes HOST_ENDIAN or CSUM_BASE. -/
def Obligations.ConfigurationNeverChanges : Prop :=
  ∀ s t : State, step s = .next t → t.params = s.params

/-- R57, R50: CSUM never writes system memory: a byte that a step changes was written by a host's byte store to it, or by
a host's write that touches it outside CSUM's window (what such a write leaves is the model's, log 11). -/
def Obligations.SystemMemoryChangedOnlyByHostStores : Prop :=
  ∀ (s t : State) (a : Nat), step s = .next t → Memory.read t.mem a ≠ Memory.read s.mem a →
    s.nextTurn = .host ∧ ∃ op, s.host.head? = some op ∧
      ((∃ x b, op = .store x b ∧ x.toNat = a) ∨
        (∃ w x v, op = .write w x v ∧ ∃ y ∈ touched w x, y.toNat = a ∧ s.inWindow y = false))

/-- R78: ST8 to an address outside CSUM's window makes that address hold the byte and changes no other byte and no CSUM
state. -/
def Obligations.ByteStoreWritesOneByte : Prop :=
  ∀ (s : State) (x : Word) (b : Byte), s.inWindow x = false →
    ∃ t, step (s.offer (.store x b)) = .next t ∧ Memory.read t.mem x.toNat = some b ∧
      (∀ a, a ≠ x.toNat → Memory.read t.mem a = Memory.read s.mem a) ∧
      t = { s with mem := t.mem, raceLog := t.raceLog }

/-! ### The whole machine -/

/-- The invariant holds after reset, in every configuration. -/
def Obligations.InvariantHoldsAtReset : Prop := ∀ p : Params, (State.resetWith p).Inv

/-- R33, R36, R125, R126, R140 and the canonical form of memory: every step of every agent keeps the invariant. -/
def Obligations.StepKeepsInvariant : Prop :=
  ∀ s t : State, s.Inv → step s = .next t → t.Inv

/-- 93_implementation_defined.md section 1: every state has a next step; nothing faults and nothing is refused. -/
def Obligations.EveryStateHasANextStep : Prop := ∀ s : State, ∃ t, step s = .next t

/-- R36, 93_implementation_defined.md I10: the engine's state while BUSY = 0 is read by no rule: two idle states that
differ in it alone step to states that differ in it alone, and to the same state where the step starts a BUF. -/
def Obligations.IdleEngineStateIsNeverRead : Prop :=
  ∀ (s s' t : State), s.busy = false →
    s' = { s with
      engSrc := s'.engSrc
      engLen := s'.engLen
      engAcc0 := s'.engAcc0
      engTail0 := s'.engTail0
      engBytes := s'.engBytes
      raceLog := s'.raceLog } →
    step s = .next t → ∃ t', step s' = .next t' ∧ t' = { t with
      engSrc := t'.engSrc
      engLen := t'.engLen
      engAcc0 := t'.engAcc0
      engTail0 := t'.engTail0
      engBytes := t'.engBytes
      raceLog := t'.raceLog } ∧ (t.busy = true → t' = t)
end

