-- ==== Sys2Proof/Laws/Encoding.lean ====
section
/-! SUPPORT. The fields of a command word, and the masks of the opcode map read as conditions on its fields. -/

namespace Sys2Proof

/-- The number a command word is. -/
theorem cmdWord_toNat (r b1 b0 op : Byte) :
    (cmdWord r b1 b0 op).toNat = r.toNat * 2 ^ 24 + b1.toNat * 2 ^ 16 + b0.toNat * 2 ^ 8 + op.toNat := by
  have h := op.isLt; have h0 := b0.isLt; have h1 := b1.isLt
  simp only [cmdWord, BitVec.toNat_append]
  rw [← Nat.shiftLeft_add_eq_or_of_lt h1, ← Nat.shiftLeft_add_eq_or_of_lt h0, ← Nat.shiftLeft_add_eq_or_of_lt h]
  simp only [Nat.shiftLeft_eq]
  omega

/-- A word is its four fields. -/
theorem cmdWord_fields (w : Word) : cmdWord (rsvdField w) (b1Field w) (b0Field w) (opField w) = w := by
  apply BitVec.eq_of_toNat_eq
  have h := w.isLt
  simp only [cmdWord_toNat, rsvdField, b1Field, b0Field, opField, BitVec.extractLsb'_toNat,
    Nat.shiftRight_eq_div_pow]
  omega

@[simp] theorem opField_cmdWord (r b1 b0 op : Byte) : opField (cmdWord r b1 b0 op) = op := by
  apply BitVec.eq_of_toNat_eq
  have h := op.isLt; have h0 := b0.isLt; have h1 := b1.isLt
  simp only [opField, BitVec.extractLsb'_toNat, cmdWord_toNat, Nat.shiftRight_eq_div_pow]
  omega

@[simp] theorem b0Field_cmdWord (r b1 b0 op : Byte) : b0Field (cmdWord r b1 b0 op) = b0 := by
  apply BitVec.eq_of_toNat_eq
  have h := op.isLt; have h0 := b0.isLt; have h1 := b1.isLt
  simp only [b0Field, BitVec.extractLsb'_toNat, cmdWord_toNat, Nat.shiftRight_eq_div_pow]
  omega

@[simp] theorem b1Field_cmdWord (r b1 b0 op : Byte) : b1Field (cmdWord r b1 b0 op) = b1 := by
  apply BitVec.eq_of_toNat_eq
  have h := op.isLt; have h0 := b0.isLt; have h1 := b1.isLt
  simp only [b1Field, BitVec.extractLsb'_toNat, cmdWord_toNat, Nat.shiftRight_eq_div_pow]
  omega

@[simp] theorem rsvdField_cmdWord (r b1 b0 op : Byte) : rsvdField (cmdWord r b1 b0 op) = r := by
  apply BitVec.eq_of_toNat_eq
  have h := op.isLt; have h0 := b0.isLt; have h1 := b1.isLt; have hr := r.isLt
  simp only [rsvdField, BitVec.extractLsb'_toNat, cmdWord_toNat, Nat.shiftRight_eq_div_pow]
  omega

/-- Two words are equal when their fields are. -/
theorem cmdWord_inj {r b1 b0 op r' b1' b0' op' : Byte} :
    cmdWord r b1 b0 op = cmdWord r' b1' b0' op' ↔ r = r' ∧ b1 = b1' ∧ b0 = b0' ∧ op = op' := by
  constructor
  · intro h
    have h1 := congrArg rsvdField h; have h2 := congrArg b1Field h
    have h3 := congrArg b0Field h; have h4 := congrArg opField h
    simp only [rsvdField_cmdWord, b1Field_cmdWord, b0Field_cmdWord, opField_cmdWord] at h1 h2 h3 h4
    exact ⟨h1, h2, h3, h4⟩
  · rintro ⟨rfl, rfl, rfl, rfl⟩; rfl

theorem cmdWord_and (r b1 b0 op r' b1' b0' op' : Byte) :
    cmdWord r b1 b0 op &&& cmdWord r' b1' b0' op' =
      cmdWord (r &&& r') (b1 &&& b1') (b0 &&& b0') (op &&& op') := by
  unfold cmdWord
  rw [BitVec.and_append, BitVec.and_append, BitVec.and_append]

theorem byte_and_ones (x : Byte) : x &&& 0xFF#8 = x := BitVec.and_allOnes (x := x)

/-- ADD2's row (R73): the opcode is 2 and the reserved field 0. -/
theorem add2_row (w : Word) : w &&& 0xFF0000FF#32 = 0x00000002#32 ↔ opField w = 2#8 ∧ rsvdField w = 0#8 := by
  rw [show (0xFF0000FF#32 : Word) = cmdWord 0xFF#8 0#8 0#8 0xFF#8 by decide,
    show (0x00000002#32 : Word) = cmdWord 0#8 0#8 0#8 2#8 by decide, ← cmdWord_fields w, cmdWord_and, cmdWord_inj]
  simp [byte_and_ones, and_comm]

/-- ADD1's row (R73): the opcode is 3, the second data byte and the reserved field 0. -/
theorem add1_row (w : Word) :
    w &&& 0xFFFF00FF#32 = 0x00000003#32 ↔ opField w = 3#8 ∧ b1Field w = 0#8 ∧ rsvdField w = 0#8 := by
  rw [show (0xFFFF00FF#32 : Word) = cmdWord 0xFF#8 0xFF#8 0#8 0xFF#8 by decide,
    show (0x00000003#32 : Word) = cmdWord 0#8 0#8 0#8 3#8 by decide, ← cmdWord_fields w, cmdWord_and, cmdWord_inj]
  simp only [byte_and_ones, rsvdField_cmdWord, b1Field_cmdWord, opField_cmdWord]
  constructor
  · rintro ⟨h1, h2, -, h3⟩; exact ⟨h3, h2, h1⟩
  · rintro ⟨h3, h2, h1⟩; exact ⟨h1, h2, by simp, h3⟩

/-! ### The fields as numbers -/

theorem opField_toNat (w : Word) : (opField w).toNat = w.toNat % 256 := by
  simp only [opField, BitVec.extractLsb'_toNat, Nat.shiftRight_eq_div_pow]
  omega

theorem b0Field_toNat (w : Word) : (b0Field w).toNat = w.toNat / 2 ^ 8 % 256 := by
  simp only [b0Field, BitVec.extractLsb'_toNat, Nat.shiftRight_eq_div_pow]

theorem b1Field_toNat (w : Word) : (b1Field w).toNat = w.toNat / 2 ^ 16 % 256 := by
  simp only [b1Field, BitVec.extractLsb'_toNat, Nat.shiftRight_eq_div_pow]

theorem rsvdField_toNat (w : Word) : (rsvdField w).toNat = w.toNat / 2 ^ 24 := by
  have := w.isLt
  simp only [rsvdField, BitVec.extractLsb'_toNat, Nat.shiftRight_eq_div_pow]
  omega

/-- ADD2's row as a condition on the word's number. -/
theorem add2_row_toNat (w : Word) :
    w &&& 0xFF0000FF#32 = 0x00000002#32 ↔ w.toNat % 256 = 2 ∧ w.toNat < 2 ^ 24 := by
  rw [add2_row, ← BitVec.toNat_inj, ← BitVec.toNat_inj, opField_toNat, rsvdField_toNat]
  simp only [BitVec.toNat_ofNat]
  omega

/-- ADD1's row as a condition on the word's number. -/
theorem add1_row_toNat (w : Word) :
    w &&& 0xFFFF00FF#32 = 0x00000003#32 ↔ w.toNat % 256 = 3 ∧ w.toNat < 2 ^ 16 := by
  rw [add1_row, ← BitVec.toNat_inj, ← BitVec.toNat_inj, ← BitVec.toNat_inj, opField_toNat, rsvdField_toNat,
    b1Field_toNat]
  simp only [BitVec.toNat_ofNat]
  omega

end Sys2Proof
end

