-- ==== Sys2Proof/Laws/State.lean ====
section
/-! SUPPORT. What each named update of State does to each field, by definition, so that no later proof unfolds a
record update. -/

namespace Sys2Proof.Machine

/-! ### raise -/

section raise

variable (s : State) (c : ErrCode)

@[simp] theorem State.raise_acc : (s.raise c).acc = s.acc := rfl
@[simp] theorem State.raise_src : (s.raise c).src = s.src := rfl
@[simp] theorem State.raise_len : (s.raise c).len = s.len := rfl
@[simp] theorem State.raise_busy : (s.raise c).busy = s.busy := rfl
@[simp] theorem State.raise_ovf : (s.raise c).ovf = s.ovf := rfl
@[simp] theorem State.raise_tail : (s.raise c).tail = s.tail := rfl
@[simp] theorem State.raise_tailv : (s.raise c).tailv = s.tailv := rfl
@[simp] theorem State.raise_err : (s.raise c).err = true := rfl
@[simp] theorem State.raise_errcode : (s.raise c).errcode = if s.err then s.errcode else c.code := rfl
@[simp] theorem State.raise_engSrc : (s.raise c).engSrc = s.engSrc := rfl
@[simp] theorem State.raise_engLen : (s.raise c).engLen = s.engLen := rfl
@[simp] theorem State.raise_engAcc0 : (s.raise c).engAcc0 = s.engAcc0 := rfl
@[simp] theorem State.raise_engTail0 : (s.raise c).engTail0 = s.engTail0 := rfl
@[simp] theorem State.raise_engBytes : (s.raise c).engBytes = s.engBytes := rfl
@[simp] theorem State.raise_params : (s.raise c).params = s.params := rfl
@[simp] theorem State.raise_mem : (s.raise c).mem = s.mem := rfl
@[simp] theorem State.raise_busErrs : (s.raise c).busErrs = s.busErrs := rfl
@[simp] theorem State.raise_raceLog : (s.raise c).raceLog = s.raceLog := rfl
@[simp] theorem State.raise_engineReads : (s.raise c).engineReads = s.engineReads := rfl
@[simp] theorem State.raise_host : (s.raise c).host = s.host := rfl
@[simp] theorem State.raise_sched : (s.raise c).sched = s.sched := rfl
@[simp] theorem State.raise_responses : (s.raise c).responses = s.responses := rfl

end raise

/-! ### addData -/

section addData

variable (s : State) (v : Half)

@[simp] theorem State.addData_acc : (s.addData v).acc = (accAdd s.acc v).1 := rfl
@[simp] theorem State.addData_src : (s.addData v).src = s.src := rfl
@[simp] theorem State.addData_len : (s.addData v).len = s.len := rfl
@[simp] theorem State.addData_busy : (s.addData v).busy = s.busy := rfl
@[simp] theorem State.addData_ovf : (s.addData v).ovf = (s.ovf || (accAdd s.acc v).2) := rfl
@[simp] theorem State.addData_tail : (s.addData v).tail = s.tail := rfl
@[simp] theorem State.addData_tailv : (s.addData v).tailv = (s.tailv || s.tail) := rfl
@[simp] theorem State.addData_err : (s.addData v).err = s.err := rfl
@[simp] theorem State.addData_errcode : (s.addData v).errcode = s.errcode := rfl
@[simp] theorem State.addData_engSrc : (s.addData v).engSrc = s.engSrc := rfl
@[simp] theorem State.addData_engLen : (s.addData v).engLen = s.engLen := rfl
@[simp] theorem State.addData_engAcc0 : (s.addData v).engAcc0 = s.engAcc0 := rfl
@[simp] theorem State.addData_engTail0 : (s.addData v).engTail0 = s.engTail0 := rfl
@[simp] theorem State.addData_engBytes : (s.addData v).engBytes = s.engBytes := rfl
@[simp] theorem State.addData_params : (s.addData v).params = s.params := rfl
@[simp] theorem State.addData_mem : (s.addData v).mem = s.mem := rfl
@[simp] theorem State.addData_busErrs : (s.addData v).busErrs = s.busErrs := rfl
@[simp] theorem State.addData_raceLog : (s.addData v).raceLog = s.raceLog := rfl
@[simp] theorem State.addData_engineReads : (s.addData v).engineReads = s.engineReads := rfl
@[simp] theorem State.addData_host : (s.addData v).host = s.host := rfl
@[simp] theorem State.addData_sched : (s.addData v).sched = s.sched := rfl
@[simp] theorem State.addData_responses : (s.addData v).responses = s.responses := rfl

end addData

/-! ### startEngine -/

section startEngine

variable (s : State)

@[simp] theorem State.startEngine_acc : (s.startEngine).acc = s.acc := rfl
@[simp] theorem State.startEngine_src : (s.startEngine).src = s.src := rfl
@[simp] theorem State.startEngine_len : (s.startEngine).len = s.len := rfl
@[simp] theorem State.startEngine_busy : (s.startEngine).busy = true := rfl
@[simp] theorem State.startEngine_ovf : (s.startEngine).ovf = s.ovf := rfl
@[simp] theorem State.startEngine_tail : (s.startEngine).tail = s.tail := rfl
@[simp] theorem State.startEngine_tailv : (s.startEngine).tailv = s.tailv := rfl
@[simp] theorem State.startEngine_err : (s.startEngine).err = s.err := rfl
@[simp] theorem State.startEngine_errcode : (s.startEngine).errcode = s.errcode := rfl
@[simp] theorem State.startEngine_engSrc : (s.startEngine).engSrc = s.src := rfl
@[simp] theorem State.startEngine_engLen : (s.startEngine).engLen = s.len := rfl
@[simp] theorem State.startEngine_engAcc0 : (s.startEngine).engAcc0 = s.acc := rfl
@[simp] theorem State.startEngine_engTail0 : (s.startEngine).engTail0 = s.tail := rfl
@[simp] theorem State.startEngine_engBytes : (s.startEngine).engBytes = [] := rfl
@[simp] theorem State.startEngine_params : (s.startEngine).params = s.params := rfl
@[simp] theorem State.startEngine_mem : (s.startEngine).mem = s.mem := rfl
@[simp] theorem State.startEngine_busErrs : (s.startEngine).busErrs = s.busErrs := rfl
@[simp] theorem State.startEngine_raceLog : (s.startEngine).raceLog = [] := rfl
@[simp] theorem State.startEngine_engineReads : (s.startEngine).engineReads = s.engineReads := rfl
@[simp] theorem State.startEngine_host : (s.startEngine).host = s.host := rfl
@[simp] theorem State.startEngine_sched : (s.startEngine).sched = s.sched := rfl
@[simp] theorem State.startEngine_responses : (s.startEngine).responses = s.responses := rfl

end startEngine

/-! ### noteRead -/

section noteRead

variable (s : State) (a : Word)

@[simp] theorem State.noteRead_acc : (s.noteRead a).acc = s.acc := rfl
@[simp] theorem State.noteRead_src : (s.noteRead a).src = s.src := rfl
@[simp] theorem State.noteRead_len : (s.noteRead a).len = s.len := rfl
@[simp] theorem State.noteRead_busy : (s.noteRead a).busy = s.busy := rfl
@[simp] theorem State.noteRead_ovf : (s.noteRead a).ovf = s.ovf := rfl
@[simp] theorem State.noteRead_tail : (s.noteRead a).tail = s.tail := rfl
@[simp] theorem State.noteRead_tailv : (s.noteRead a).tailv = s.tailv := rfl
@[simp] theorem State.noteRead_err : (s.noteRead a).err = s.err := rfl
@[simp] theorem State.noteRead_errcode : (s.noteRead a).errcode = s.errcode := rfl
@[simp] theorem State.noteRead_engSrc : (s.noteRead a).engSrc = s.engSrc := rfl
@[simp] theorem State.noteRead_engLen : (s.noteRead a).engLen = s.engLen := rfl
@[simp] theorem State.noteRead_engAcc0 : (s.noteRead a).engAcc0 = s.engAcc0 := rfl
@[simp] theorem State.noteRead_engTail0 : (s.noteRead a).engTail0 = s.engTail0 := rfl
@[simp] theorem State.noteRead_engBytes : (s.noteRead a).engBytes = s.engBytes := rfl
@[simp] theorem State.noteRead_params : (s.noteRead a).params = s.params := rfl
@[simp] theorem State.noteRead_mem : (s.noteRead a).mem = s.mem := rfl
@[simp] theorem State.noteRead_busErrs : (s.noteRead a).busErrs = s.busErrs := rfl
@[simp] theorem State.noteRead_raceLog : (s.noteRead a).raceLog = s.raceLog := rfl
@[simp] theorem State.noteRead_engineReads : (s.noteRead a).engineReads = s.engineReads ++ [a] := rfl
@[simp] theorem State.noteRead_host : (s.noteRead a).host = s.host := rfl
@[simp] theorem State.noteRead_sched : (s.noteRead a).sched = s.sched := rfl
@[simp] theorem State.noteRead_responses : (s.noteRead a).responses = s.responses := rfl

end noteRead

/-! ### pushByte -/

section pushByte

variable (s : State) (b : Byte)

@[simp] theorem State.pushByte_acc : (s.pushByte b).acc = s.acc := rfl
@[simp] theorem State.pushByte_src : (s.pushByte b).src = s.src := rfl
@[simp] theorem State.pushByte_len : (s.pushByte b).len = s.len := rfl
@[simp] theorem State.pushByte_busy : (s.pushByte b).busy = s.busy := rfl
@[simp] theorem State.pushByte_ovf : (s.pushByte b).ovf = s.ovf := rfl
@[simp] theorem State.pushByte_tail : (s.pushByte b).tail = s.tail := rfl
@[simp] theorem State.pushByte_tailv : (s.pushByte b).tailv = s.tailv := rfl
@[simp] theorem State.pushByte_err : (s.pushByte b).err = s.err := rfl
@[simp] theorem State.pushByte_errcode : (s.pushByte b).errcode = s.errcode := rfl
@[simp] theorem State.pushByte_engSrc : (s.pushByte b).engSrc = s.engSrc := rfl
@[simp] theorem State.pushByte_engLen : (s.pushByte b).engLen = s.engLen := rfl
@[simp] theorem State.pushByte_engAcc0 : (s.pushByte b).engAcc0 = s.engAcc0 := rfl
@[simp] theorem State.pushByte_engTail0 : (s.pushByte b).engTail0 = s.engTail0 := rfl
@[simp] theorem State.pushByte_engBytes : (s.pushByte b).engBytes = s.engBytes ++ [b] := rfl
@[simp] theorem State.pushByte_params : (s.pushByte b).params = s.params := rfl
@[simp] theorem State.pushByte_mem : (s.pushByte b).mem = s.mem := rfl
@[simp] theorem State.pushByte_busErrs : (s.pushByte b).busErrs = s.busErrs := rfl
@[simp] theorem State.pushByte_raceLog : (s.pushByte b).raceLog = s.raceLog := rfl
@[simp] theorem State.pushByte_engineReads : (s.pushByte b).engineReads = s.engineReads := rfl
@[simp] theorem State.pushByte_host : (s.pushByte b).host = s.host := rfl
@[simp] theorem State.pushByte_sched : (s.pushByte b).sched = s.sched := rfl
@[simp] theorem State.pushByte_responses : (s.pushByte b).responses = s.responses := rfl

end pushByte

/-! ### commit -/

section commit

variable (s : State)

@[simp] theorem State.commit_acc : (s.commit).acc =
    (sumBytes s.params.hostEndian s.engAcc0 s.settledBytes).1 := rfl
@[simp] theorem State.commit_src : (s.commit).src = s.src := rfl
@[simp] theorem State.commit_len : (s.commit).len = s.len := rfl
@[simp] theorem State.commit_busy : (s.commit).busy = false := rfl
@[simp] theorem State.commit_ovf : (s.commit).ovf =
    (s.ovf || (sumBytes s.params.hostEndian s.engAcc0 s.settledBytes).2) := rfl
@[simp] theorem State.commit_tail : (s.commit).tail = (s.tail || s.engLen.getLsbD 0) := rfl
@[simp] theorem State.commit_tailv : (s.commit).tailv = (s.tailv || s.engTail0) := rfl
@[simp] theorem State.commit_err : (s.commit).err = s.err := rfl
@[simp] theorem State.commit_errcode : (s.commit).errcode = s.errcode := rfl
@[simp] theorem State.commit_engSrc : (s.commit).engSrc = s.engSrc := rfl
@[simp] theorem State.commit_engLen : (s.commit).engLen = s.engLen := rfl
@[simp] theorem State.commit_engAcc0 : (s.commit).engAcc0 = s.engAcc0 := rfl
@[simp] theorem State.commit_engTail0 : (s.commit).engTail0 = s.engTail0 := rfl
@[simp] theorem State.commit_engBytes : (s.commit).engBytes = s.engBytes := rfl
@[simp] theorem State.commit_params : (s.commit).params = s.params := rfl
@[simp] theorem State.commit_mem : (s.commit).mem = s.mem := rfl
@[simp] theorem State.commit_busErrs : (s.commit).busErrs = s.busErrs := rfl
@[simp] theorem State.commit_raceLog : (s.commit).raceLog = s.raceLog := rfl
@[simp] theorem State.commit_engineReads : (s.commit).engineReads = s.engineReads := rfl
@[simp] theorem State.commit_host : (s.commit).host = s.host := rfl
@[simp] theorem State.commit_sched : (s.commit).sched = s.sched := rfl
@[simp] theorem State.commit_responses : (s.commit).responses = s.responses := rfl

end commit

/-! ### abort -/

section abort

variable (s : State)

@[simp] theorem State.abort_acc : (s.abort).acc = s.acc := rfl
@[simp] theorem State.abort_src : (s.abort).src = s.src := rfl
@[simp] theorem State.abort_len : (s.abort).len = s.len := rfl
@[simp] theorem State.abort_busy : (s.abort).busy = false := rfl
@[simp] theorem State.abort_ovf : (s.abort).ovf = s.ovf := rfl
@[simp] theorem State.abort_tail : (s.abort).tail = s.tail := rfl
@[simp] theorem State.abort_tailv : (s.abort).tailv = s.tailv := rfl
@[simp] theorem State.abort_err : (s.abort).err = true := rfl
@[simp] theorem State.abort_errcode : (s.abort).errcode = if s.err then s.errcode else 4#4 := rfl
@[simp] theorem State.abort_engSrc : (s.abort).engSrc = s.engSrc := rfl
@[simp] theorem State.abort_engLen : (s.abort).engLen = s.engLen := rfl
@[simp] theorem State.abort_engAcc0 : (s.abort).engAcc0 = s.engAcc0 := rfl
@[simp] theorem State.abort_engTail0 : (s.abort).engTail0 = s.engTail0 := rfl
@[simp] theorem State.abort_engBytes : (s.abort).engBytes = s.engBytes := rfl
@[simp] theorem State.abort_params : (s.abort).params = s.params := rfl
@[simp] theorem State.abort_mem : (s.abort).mem = s.mem := rfl
@[simp] theorem State.abort_busErrs : (s.abort).busErrs = s.busErrs := rfl
@[simp] theorem State.abort_raceLog : (s.abort).raceLog = s.raceLog := rfl
@[simp] theorem State.abort_engineReads : (s.abort).engineReads = s.engineReads := rfl
@[simp] theorem State.abort_host : (s.abort).host = s.host := rfl
@[simp] theorem State.abort_sched : (s.abort).sched = s.sched := rfl
@[simp] theorem State.abort_responses : (s.abort).responses = s.responses := rfl

end abort

/-! ### writeStatus -/

section writeStatus

variable (s : State) (v : Word)

@[simp] theorem State.writeStatus_acc : (s.writeStatus v).acc = s.acc := rfl
@[simp] theorem State.writeStatus_src : (s.writeStatus v).src = s.src := rfl
@[simp] theorem State.writeStatus_len : (s.writeStatus v).len = s.len := rfl
@[simp] theorem State.writeStatus_busy : (s.writeStatus v).busy = s.busy := rfl
@[simp] theorem State.writeStatus_ovf : (s.writeStatus v).ovf = (s.ovf && !clearsOvf v) := rfl
@[simp] theorem State.writeStatus_tail : (s.writeStatus v).tail = s.tail := rfl
@[simp] theorem State.writeStatus_tailv : (s.writeStatus v).tailv = (s.tailv && !clearsTailv v) := rfl
@[simp] theorem State.writeStatus_err : (s.writeStatus v).err = (s.err && !clearsErr v) := rfl
@[simp] theorem State.writeStatus_errcode : (s.writeStatus v).errcode =
    if clearsErr v then 0#4 else s.errcode := rfl
@[simp] theorem State.writeStatus_engSrc : (s.writeStatus v).engSrc = s.engSrc := rfl
@[simp] theorem State.writeStatus_engLen : (s.writeStatus v).engLen = s.engLen := rfl
@[simp] theorem State.writeStatus_engAcc0 : (s.writeStatus v).engAcc0 = s.engAcc0 := rfl
@[simp] theorem State.writeStatus_engTail0 : (s.writeStatus v).engTail0 = s.engTail0 := rfl
@[simp] theorem State.writeStatus_engBytes : (s.writeStatus v).engBytes = s.engBytes := rfl
@[simp] theorem State.writeStatus_params : (s.writeStatus v).params = s.params := rfl
@[simp] theorem State.writeStatus_mem : (s.writeStatus v).mem = s.mem := rfl
@[simp] theorem State.writeStatus_busErrs : (s.writeStatus v).busErrs = s.busErrs := rfl
@[simp] theorem State.writeStatus_raceLog : (s.writeStatus v).raceLog = s.raceLog := rfl
@[simp] theorem State.writeStatus_engineReads : (s.writeStatus v).engineReads = s.engineReads := rfl
@[simp] theorem State.writeStatus_host : (s.writeStatus v).host = s.host := rfl
@[simp] theorem State.writeStatus_sched : (s.writeStatus v).sched = s.sched := rfl
@[simp] theorem State.writeStatus_responses : (s.writeStatus v).responses = s.responses := rfl

end writeStatus

/-! ### resetStep -/

section resetStep

variable (s : State)

@[simp] theorem State.resetStep_acc : (s.resetStep).acc = 0#32 := rfl
@[simp] theorem State.resetStep_src : (s.resetStep).src = 0#32 := rfl
@[simp] theorem State.resetStep_len : (s.resetStep).len = 0#32 := rfl
@[simp] theorem State.resetStep_busy : (s.resetStep).busy = false := rfl
@[simp] theorem State.resetStep_ovf : (s.resetStep).ovf = false := rfl
@[simp] theorem State.resetStep_tail : (s.resetStep).tail = false := rfl
@[simp] theorem State.resetStep_tailv : (s.resetStep).tailv = false := rfl
@[simp] theorem State.resetStep_err : (s.resetStep).err = false := rfl
@[simp] theorem State.resetStep_errcode : (s.resetStep).errcode = 0#4 := rfl
@[simp] theorem State.resetStep_engSrc : (s.resetStep).engSrc = 0#32 := rfl
@[simp] theorem State.resetStep_engLen : (s.resetStep).engLen = 0#32 := rfl
@[simp] theorem State.resetStep_engAcc0 : (s.resetStep).engAcc0 = 0#32 := rfl
@[simp] theorem State.resetStep_engTail0 : (s.resetStep).engTail0 = false := rfl
@[simp] theorem State.resetStep_engBytes : (s.resetStep).engBytes = [] := rfl
@[simp] theorem State.resetStep_params : (s.resetStep).params = s.params := rfl
@[simp] theorem State.resetStep_mem : (s.resetStep).mem = s.mem := rfl
@[simp] theorem State.resetStep_busErrs : (s.resetStep).busErrs = s.busErrs := rfl
@[simp] theorem State.resetStep_raceLog : (s.resetStep).raceLog = [] := rfl
@[simp] theorem State.resetStep_engineReads : (s.resetStep).engineReads = s.engineReads := rfl
@[simp] theorem State.resetStep_host : (s.resetStep).host = s.host := rfl
@[simp] theorem State.resetStep_sched : (s.resetStep).sched = s.sched := rfl
@[simp] theorem State.resetStep_responses : (s.resetStep).responses = s.responses := rfl

end resetStep

/-! ### storeByte -/

section storeByte

variable (s : State) (a : Word) (b : Option Byte)

@[simp] theorem State.storeByte_acc : (s.storeByte a b).acc = s.acc := rfl
@[simp] theorem State.storeByte_src : (s.storeByte a b).src = s.src := rfl
@[simp] theorem State.storeByte_len : (s.storeByte a b).len = s.len := rfl
@[simp] theorem State.storeByte_busy : (s.storeByte a b).busy = s.busy := rfl
@[simp] theorem State.storeByte_ovf : (s.storeByte a b).ovf = s.ovf := rfl
@[simp] theorem State.storeByte_tail : (s.storeByte a b).tail = s.tail := rfl
@[simp] theorem State.storeByte_tailv : (s.storeByte a b).tailv = s.tailv := rfl
@[simp] theorem State.storeByte_err : (s.storeByte a b).err = s.err := rfl
@[simp] theorem State.storeByte_errcode : (s.storeByte a b).errcode = s.errcode := rfl
@[simp] theorem State.storeByte_engSrc : (s.storeByte a b).engSrc = s.engSrc := rfl
@[simp] theorem State.storeByte_engLen : (s.storeByte a b).engLen = s.engLen := rfl
@[simp] theorem State.storeByte_engAcc0 : (s.storeByte a b).engAcc0 = s.engAcc0 := rfl
@[simp] theorem State.storeByte_engTail0 : (s.storeByte a b).engTail0 = s.engTail0 := rfl
@[simp] theorem State.storeByte_engBytes : (s.storeByte a b).engBytes = s.engBytes := rfl
@[simp] theorem State.storeByte_params : (s.storeByte a b).params = s.params := rfl
@[simp] theorem State.storeByte_mem : (s.storeByte a b).mem = s.mem.put a.toNat b := rfl
@[simp] theorem State.storeByte_busErrs : (s.storeByte a b).busErrs = s.busErrs := rfl
@[simp] theorem State.storeByte_raceLog : (s.storeByte a b).raceLog =
    if s.busy then s.raceLog ++ [(a.toNat, s.mem.read a.toNat), (a.toNat, b)] else s.raceLog := rfl
@[simp] theorem State.storeByte_engineReads : (s.storeByte a b).engineReads = s.engineReads := rfl
@[simp] theorem State.storeByte_host : (s.storeByte a b).host = s.host := rfl
@[simp] theorem State.storeByte_sched : (s.storeByte a b).sched = s.sched := rfl
@[simp] theorem State.storeByte_responses : (s.storeByte a b).responses = s.responses := rfl

end storeByte

/-! ### respond -/

section respond

variable (s : State) (r : Response)

@[simp] theorem State.respond_acc : (s.respond r).acc = s.acc := rfl
@[simp] theorem State.respond_src : (s.respond r).src = s.src := rfl
@[simp] theorem State.respond_len : (s.respond r).len = s.len := rfl
@[simp] theorem State.respond_busy : (s.respond r).busy = s.busy := rfl
@[simp] theorem State.respond_ovf : (s.respond r).ovf = s.ovf := rfl
@[simp] theorem State.respond_tail : (s.respond r).tail = s.tail := rfl
@[simp] theorem State.respond_tailv : (s.respond r).tailv = s.tailv := rfl
@[simp] theorem State.respond_err : (s.respond r).err = s.err := rfl
@[simp] theorem State.respond_errcode : (s.respond r).errcode = s.errcode := rfl
@[simp] theorem State.respond_engSrc : (s.respond r).engSrc = s.engSrc := rfl
@[simp] theorem State.respond_engLen : (s.respond r).engLen = s.engLen := rfl
@[simp] theorem State.respond_engAcc0 : (s.respond r).engAcc0 = s.engAcc0 := rfl
@[simp] theorem State.respond_engTail0 : (s.respond r).engTail0 = s.engTail0 := rfl
@[simp] theorem State.respond_engBytes : (s.respond r).engBytes = s.engBytes := rfl
@[simp] theorem State.respond_params : (s.respond r).params = s.params := rfl
@[simp] theorem State.respond_mem : (s.respond r).mem = s.mem := rfl
@[simp] theorem State.respond_busErrs : (s.respond r).busErrs = s.busErrs := rfl
@[simp] theorem State.respond_raceLog : (s.respond r).raceLog = s.raceLog := rfl
@[simp] theorem State.respond_engineReads : (s.respond r).engineReads = s.engineReads := rfl
@[simp] theorem State.respond_host : (s.respond r).host = s.host := rfl
@[simp] theorem State.respond_sched : (s.respond r).sched = s.sched := rfl
@[simp] theorem State.respond_responses : (s.respond r).responses = s.responses ++ [r] := rfl

end respond

/-! ### popTurn -/

section popTurn

variable (s : State)

@[simp] theorem State.popTurn_acc : (s.popTurn).acc = s.acc := rfl
@[simp] theorem State.popTurn_src : (s.popTurn).src = s.src := rfl
@[simp] theorem State.popTurn_len : (s.popTurn).len = s.len := rfl
@[simp] theorem State.popTurn_busy : (s.popTurn).busy = s.busy := rfl
@[simp] theorem State.popTurn_ovf : (s.popTurn).ovf = s.ovf := rfl
@[simp] theorem State.popTurn_tail : (s.popTurn).tail = s.tail := rfl
@[simp] theorem State.popTurn_tailv : (s.popTurn).tailv = s.tailv := rfl
@[simp] theorem State.popTurn_err : (s.popTurn).err = s.err := rfl
@[simp] theorem State.popTurn_errcode : (s.popTurn).errcode = s.errcode := rfl
@[simp] theorem State.popTurn_engSrc : (s.popTurn).engSrc = s.engSrc := rfl
@[simp] theorem State.popTurn_engLen : (s.popTurn).engLen = s.engLen := rfl
@[simp] theorem State.popTurn_engAcc0 : (s.popTurn).engAcc0 = s.engAcc0 := rfl
@[simp] theorem State.popTurn_engTail0 : (s.popTurn).engTail0 = s.engTail0 := rfl
@[simp] theorem State.popTurn_engBytes : (s.popTurn).engBytes = s.engBytes := rfl
@[simp] theorem State.popTurn_params : (s.popTurn).params = s.params := rfl
@[simp] theorem State.popTurn_mem : (s.popTurn).mem = s.mem := rfl
@[simp] theorem State.popTurn_busErrs : (s.popTurn).busErrs = s.busErrs := rfl
@[simp] theorem State.popTurn_raceLog : (s.popTurn).raceLog = s.raceLog := rfl
@[simp] theorem State.popTurn_engineReads : (s.popTurn).engineReads = s.engineReads := rfl
@[simp] theorem State.popTurn_host : (s.popTurn).host = s.host := rfl
@[simp] theorem State.popTurn_sched : (s.popTurn).sched = s.sched.tail := rfl
@[simp] theorem State.popTurn_responses : (s.popTurn).responses = s.responses := rfl

end popTurn

/-! ### offer -/

section offer

variable (s : State) (op : HostOp)

@[simp] theorem State.offer_acc : (s.offer op).acc = s.acc := rfl
@[simp] theorem State.offer_src : (s.offer op).src = s.src := rfl
@[simp] theorem State.offer_len : (s.offer op).len = s.len := rfl
@[simp] theorem State.offer_busy : (s.offer op).busy = s.busy := rfl
@[simp] theorem State.offer_ovf : (s.offer op).ovf = s.ovf := rfl
@[simp] theorem State.offer_tail : (s.offer op).tail = s.tail := rfl
@[simp] theorem State.offer_tailv : (s.offer op).tailv = s.tailv := rfl
@[simp] theorem State.offer_err : (s.offer op).err = s.err := rfl
@[simp] theorem State.offer_errcode : (s.offer op).errcode = s.errcode := rfl
@[simp] theorem State.offer_engSrc : (s.offer op).engSrc = s.engSrc := rfl
@[simp] theorem State.offer_engLen : (s.offer op).engLen = s.engLen := rfl
@[simp] theorem State.offer_engAcc0 : (s.offer op).engAcc0 = s.engAcc0 := rfl
@[simp] theorem State.offer_engTail0 : (s.offer op).engTail0 = s.engTail0 := rfl
@[simp] theorem State.offer_engBytes : (s.offer op).engBytes = s.engBytes := rfl
@[simp] theorem State.offer_params : (s.offer op).params = s.params := rfl
@[simp] theorem State.offer_mem : (s.offer op).mem = s.mem := rfl
@[simp] theorem State.offer_busErrs : (s.offer op).busErrs = s.busErrs := rfl
@[simp] theorem State.offer_raceLog : (s.offer op).raceLog = s.raceLog := rfl
@[simp] theorem State.offer_engineReads : (s.offer op).engineReads = s.engineReads := rfl
@[simp] theorem State.offer_host : (s.offer op).host = op :: s.host := rfl
@[simp] theorem State.offer_sched : (s.offer op).sched = .host :: s.sched := rfl
@[simp] theorem State.offer_responses : (s.offer op).responses = s.responses := rfl

end offer

/-! ### grant -/

section grant

variable (s : State) (t : Turn)

@[simp] theorem State.grant_acc : (s.grant t).acc = s.acc := rfl
@[simp] theorem State.grant_src : (s.grant t).src = s.src := rfl
@[simp] theorem State.grant_len : (s.grant t).len = s.len := rfl
@[simp] theorem State.grant_busy : (s.grant t).busy = s.busy := rfl
@[simp] theorem State.grant_ovf : (s.grant t).ovf = s.ovf := rfl
@[simp] theorem State.grant_tail : (s.grant t).tail = s.tail := rfl
@[simp] theorem State.grant_tailv : (s.grant t).tailv = s.tailv := rfl
@[simp] theorem State.grant_err : (s.grant t).err = s.err := rfl
@[simp] theorem State.grant_errcode : (s.grant t).errcode = s.errcode := rfl
@[simp] theorem State.grant_engSrc : (s.grant t).engSrc = s.engSrc := rfl
@[simp] theorem State.grant_engLen : (s.grant t).engLen = s.engLen := rfl
@[simp] theorem State.grant_engAcc0 : (s.grant t).engAcc0 = s.engAcc0 := rfl
@[simp] theorem State.grant_engTail0 : (s.grant t).engTail0 = s.engTail0 := rfl
@[simp] theorem State.grant_engBytes : (s.grant t).engBytes = s.engBytes := rfl
@[simp] theorem State.grant_params : (s.grant t).params = s.params := rfl
@[simp] theorem State.grant_mem : (s.grant t).mem = s.mem := rfl
@[simp] theorem State.grant_busErrs : (s.grant t).busErrs = s.busErrs := rfl
@[simp] theorem State.grant_raceLog : (s.grant t).raceLog = s.raceLog := rfl
@[simp] theorem State.grant_engineReads : (s.grant t).engineReads = s.engineReads := rfl
@[simp] theorem State.grant_host : (s.grant t).host = s.host := rfl
@[simp] theorem State.grant_sched : (s.grant t).sched = t :: s.sched := rfl
@[simp] theorem State.grant_responses : (s.grant t).responses = s.responses := rfl

end grant

end Sys2Proof.Machine
end

