-- ==== Sys2Proof/Laws/Memory.lean ====
section
/-! SUPPORT. What the memory operations do, and that each keeps the canonical form. -/

namespace Sys2Proof.Machine

@[simp] theorem Memory.read_nil (a : Nat) : Memory.read [] a = none := rfl

theorem Memory.read_write_same (m : Memory) (a : Nat) (b : Byte) : (m.write a b).read a = some b := by
  induction m with
  | nil => simp [Memory.write, Memory.read]
  | cons c m ih =>
    simp only [Memory.write]
    split
    · simp [Memory.read]
    · split
      · simp [Memory.read]
      · simp [Memory.read, ih]; omega

theorem Memory.read_write_other (m : Memory) (a x : Nat) (b : Byte) (h : x ≠ a) :
    (m.write a b).read x = m.read x := by
  induction m with
  | nil => simp [Memory.write, Memory.read, h.symm]
  | cons c m ih =>
    simp only [Memory.write]
    split
    · simp [Memory.read, h.symm]
    · split
      · rename_i h'; subst h'; simp [Memory.read, h.symm]
      · simp [Memory.read, ih]

theorem Memory.read_erase_other (m : Memory) (a x : Nat) (h : x ≠ a) : (m.erase a).read x = m.read x := by
  induction m with
  | nil => rfl
  | cons c m ih =>
    simp only [Memory.erase]
    split
    · rename_i h'; simp [Memory.read, h', h.symm]
    · simp [Memory.read, ih]

theorem Memory.read_put_other (m : Memory) (a x : Nat) (b : Option Byte) (h : x ≠ a) :
    (m.put a b).read x = m.read x := by
  cases b with
  | none => exact m.read_erase_other a x h
  | some b => exact m.read_write_other a x b h

/-- A bound passed down: rising above `lo` is rising above anything not greater. -/
theorem Memory.risingFrom_weaken {m : Memory} {lo hi : Nat} (h : lo ≤ hi)
    (hm : Memory.risingFrom (some hi) m = true) : Memory.risingFrom (some lo) m = true := by
  cases m with
  | nil => rfl
  | cons c m =>
    simp [Memory.risingFrom] at *
    exact ⟨⟨by omega, hm.1.2⟩, hm.2⟩

theorem Memory.risingFrom_none {m : Memory} {lo : Nat} (hm : Memory.risingFrom (some lo) m = true) :
    Memory.risingFrom none m = true := by
  cases m with
  | nil => rfl
  | cons c m => simp [Memory.risingFrom] at *; exact ⟨hm.1.2, hm.2⟩

/-- Nothing is listed at or below the bound a memory rises from. -/
theorem Memory.read_below {m : Memory} {lo a : Nat} (hm : Memory.risingFrom (some lo) m = true) (h : a ≤ lo) :
    m.read a = none := by
  induction m generalizing lo with
  | nil => rfl
  | cons c m ih =>
    simp [Memory.risingFrom] at hm
    have hne : ¬ c.1 = a := by omega
    simp only [Memory.read, hne, if_false]
    exact ih hm.2 (by omega)

theorem Memory.risingFrom_write {m : Memory} {lo : Option Nat} {a : Nat} {b : Byte}
    (hm : Memory.risingFrom lo m = true) (hlo : ∀ l, lo = some l → l < a) (ha : a < 2 ^ 32) :
    Memory.risingFrom lo (m.write a b) = true := by
  induction m generalizing lo with
  | nil =>
    cases lo with
    | none => simpa [Memory.write, Memory.risingFrom] using ha
    | some l => have := hlo l rfl; simp [Memory.write, Memory.risingFrom]; omega
  | cons c m ih =>
    simp only [Memory.write]
    have hl : lo.all (· < a) = true := by
      cases lo with
      | none => rfl
      | some l => simpa using hlo l rfl
    simp [Memory.risingFrom] at hm
    split
    · simp [Memory.risingFrom]; refine ⟨⟨by simpa using hl, ha⟩, ⟨by assumption, hm.1.2⟩, hm.2⟩
    · split
      · rename_i h; subst h; simp [Memory.risingFrom]; exact ⟨⟨by simpa using hl, ha⟩, hm.2⟩
      · simp [Memory.risingFrom]
        refine ⟨hm.1, ih hm.2 ?_⟩
        intro l h; cases h; omega

theorem Memory.risingFrom_erase {m : Memory} {lo : Option Nat} {a : Nat}
    (hm : Memory.risingFrom lo m = true) : Memory.risingFrom lo (m.erase a) = true := by
  induction m generalizing lo with
  | nil => exact hm
  | cons c m ih =>
    simp only [Memory.erase]
    simp [Memory.risingFrom] at hm
    split
    · cases lo with
      | none => exact Memory.risingFrom_none hm.2
      | some l => exact Memory.risingFrom_weaken (by simp at hm; omega) hm.2
    · simp [Memory.risingFrom]; exact ⟨hm.1, ih hm.2⟩

theorem Memory.wf_write {m : Memory} {a : Nat} {b : Byte} (hm : m.wf = true) (ha : a < 2 ^ 32) :
    (m.write a b).wf = true :=
  Memory.risingFrom_write hm (by simp) ha

theorem Memory.wf_erase {m : Memory} {a : Nat} (hm : m.wf = true) : (m.erase a).wf = true :=
  Memory.risingFrom_erase hm

theorem Memory.wf_put {m : Memory} {a : Nat} {b : Option Byte} (hm : m.wf = true) (ha : a < 2 ^ 32) :
    (m.put a b).wf = true := by
  cases b with
  | none => exact Memory.wf_erase hm
  | some b => exact Memory.wf_write hm ha

theorem Memory.read_erase_same {m : Memory} {a : Nat} {lo : Option Nat}
    (hm : Memory.risingFrom lo m = true) : (m.erase a).read a = none := by
  induction m generalizing lo with
  | nil => rfl
  | cons c m ih =>
    simp [Memory.risingFrom] at hm
    simp only [Memory.erase]
    split
    · exact Memory.read_below hm.2 (by omega)
    · rename_i h; simp [Memory.read, h]; exact ih hm.2

/-- A put byte is what the location then holds, in a canonical memory. -/
theorem Memory.read_put_same {m : Memory} {a : Nat} {b : Option Byte} (hm : m.wf = true) :
    (m.put a b).read a = b := by
  cases b with
  | none => exact Memory.read_erase_same hm
  | some b => exact m.read_write_same a b

/-- `storeByte` keeps the canonical form. -/
theorem State.storeByte_wf {s : State} {a : Word} {b : Option Byte} (h : s.mem.wf = true) :
    (s.storeByte a b).mem.wf = true :=
  Memory.wf_put h a.isLt

/-- `forgetOutside` keeps the canonical form. -/
theorem State.forgetOutside_wf {s : State} {w : Width} {a : Word} (h : s.mem.wf = true) :
    (s.forgetOutside w a).mem.wf = true := by
  unfold State.forgetOutside
  generalize (touched w a).filter _ = l
  induction l generalizing s with
  | nil => exact h
  | cons x l ih => exact ih (State.storeByte_wf h)

/-- All `forgetOutside` can change: memory, and the race log of a BUF in flight. -/
theorem State.forgetOutside_eq (s : State) (w : Width) (a : Word) :
    s.forgetOutside w a =
      { s with mem := (s.forgetOutside w a).mem, raceLog := (s.forgetOutside w a).raceLog } := by
  unfold State.forgetOutside
  generalize (touched w a).filter _ = l
  induction l generalizing s with
  | nil => rfl
  | cons x l ih =>
    simp only [List.foldl_cons]
    exact ih (s.storeByte x none)

section forgetOutside

variable (s : State) (w : Width) (a : Word)

@[simp] theorem State.forgetOutside_acc : (s.forgetOutside w a).acc = s.acc := by
  rw [State.forgetOutside_eq]
@[simp] theorem State.forgetOutside_src : (s.forgetOutside w a).src = s.src := by
  rw [State.forgetOutside_eq]
@[simp] theorem State.forgetOutside_len : (s.forgetOutside w a).len = s.len := by
  rw [State.forgetOutside_eq]
@[simp] theorem State.forgetOutside_busy : (s.forgetOutside w a).busy = s.busy := by
  rw [State.forgetOutside_eq]
@[simp] theorem State.forgetOutside_ovf : (s.forgetOutside w a).ovf = s.ovf := by
  rw [State.forgetOutside_eq]
@[simp] theorem State.forgetOutside_tail : (s.forgetOutside w a).tail = s.tail := by
  rw [State.forgetOutside_eq]
@[simp] theorem State.forgetOutside_tailv : (s.forgetOutside w a).tailv = s.tailv := by
  rw [State.forgetOutside_eq]
@[simp] theorem State.forgetOutside_err : (s.forgetOutside w a).err = s.err := by
  rw [State.forgetOutside_eq]
@[simp] theorem State.forgetOutside_errcode : (s.forgetOutside w a).errcode = s.errcode := by
  rw [State.forgetOutside_eq]
@[simp] theorem State.forgetOutside_engSrc : (s.forgetOutside w a).engSrc = s.engSrc := by
  rw [State.forgetOutside_eq]
@[simp] theorem State.forgetOutside_engLen : (s.forgetOutside w a).engLen = s.engLen := by
  rw [State.forgetOutside_eq]
@[simp] theorem State.forgetOutside_engAcc0 : (s.forgetOutside w a).engAcc0 = s.engAcc0 := by
  rw [State.forgetOutside_eq]
@[simp] theorem State.forgetOutside_engTail0 : (s.forgetOutside w a).engTail0 = s.engTail0 := by
  rw [State.forgetOutside_eq]
@[simp] theorem State.forgetOutside_engBytes : (s.forgetOutside w a).engBytes = s.engBytes := by
  rw [State.forgetOutside_eq]
@[simp] theorem State.forgetOutside_params : (s.forgetOutside w a).params = s.params := by
  rw [State.forgetOutside_eq]
@[simp] theorem State.forgetOutside_busErrs : (s.forgetOutside w a).busErrs = s.busErrs := by
  rw [State.forgetOutside_eq]
@[simp] theorem State.forgetOutside_engineReads : (s.forgetOutside w a).engineReads = s.engineReads := by
  rw [State.forgetOutside_eq]
@[simp] theorem State.forgetOutside_host : (s.forgetOutside w a).host = s.host := by
  rw [State.forgetOutside_eq]
@[simp] theorem State.forgetOutside_sched : (s.forgetOutside w a).sched = s.sched := by
  rw [State.forgetOutside_eq]
@[simp] theorem State.forgetOutside_responses : (s.forgetOutside w a).responses = s.responses := by
  rw [State.forgetOutside_eq]

end forgetOutside

/-- Stores of unknown bytes leave every byte at another address. -/
theorem State.foldl_forget_read (l : List Word) (x : Nat) (hl : ∀ y ∈ l, y.toNat ≠ x) (s : State) :
    (l.foldl (fun t y => t.storeByte y none) s).mem.read x = s.mem.read x := by
  induction l generalizing s with
  | nil => rfl
  | cons y l ih =>
    simp only [List.foldl_cons]
    rw [ih (fun z hz => hl z (List.mem_cons_of_mem _ hz)), State.storeByte_mem]
    exact Memory.read_put_other _ _ _ _ (fun e => hl y List.mem_cons_self e.symm)

/-- `forgetOutside` leaves every byte it does not touch. -/
theorem State.forgetOutside_read (s : State) (w : Width) (a : Word) (x : Nat)
    (h : ∀ y ∈ touched w a, s.inWindow y = false → y.toNat ≠ x) :
    (s.forgetOutside w a).mem.read x = s.mem.read x := by
  apply State.foldl_forget_read
  intro y hy
  simp at hy
  exact h y hy.1 hy.2

/-- Stores of unknown bytes make each byte they are to unknown, in a canonical memory. -/
theorem State.foldl_forget_none (l : List Word) (x : Word) (hx : x ∈ l) (s : State) (hm : s.mem.wf = true) :
    (l.foldl (fun t y => t.storeByte y none) s).mem.read x.toNat = none := by
  induction l generalizing s with
  | nil => cases hx
  | cons y l ih =>
    rw [List.foldl_cons]
    by_cases hl : x ∈ l
    · exact ih hl _ (State.storeByte_wf hm)
    · have e : x = y := (List.mem_cons.mp hx).resolve_right hl
      rw [State.foldl_forget_read l x.toNat fun z hz h => hl (BitVec.eq_of_toNat_eq h ▸ hz), State.storeByte_mem, ← e]
      exact Memory.read_put_same hm

/-- `forgetOutside` makes each byte it touches outside the window unknown. -/
theorem State.forgetOutside_none (s : State) (w : Width) (a x : Word) (hm : s.mem.wf = true) (hx : x ∈ touched w a)
    (hw : s.inWindow x = false) : (s.forgetOutside w a).mem.read x.toNat = none :=
  State.foldl_forget_none _ x (List.mem_filter.mpr ⟨hx, by simp [hw]⟩) s hm

end Sys2Proof.Machine
end

