-- ==== Sys2Proof/Laws/PerInstr.lean ====
section
/-! SUPPORT. Statements made per instruction: what the word of each command holds outside its operands
(30_encoding.md R71, R73). -/

namespace Sys2Proof.Laws.FixedFields

/-- The opcode of each mnemonic (R73). -/
def opcode : Instr → Byte
  | .nop => 0x00#8
  | .clear => 0x01#8
  | .add2 _ _ => 0x02#8
  | .add1 _ => 0x03#8
  | .buf => 0x04#8

/-- The word of a command holds its opcode in OP and zero in RSVD. -/
def Statement (i : Instr) : Prop := opField (encode i) = opcode i ∧ rsvdField (encode i) = 0x00#8

theorem nop : Statement .nop := ⟨opField_cmdWord .., rsvdField_cmdWord ..⟩

theorem clear : Statement .clear := ⟨opField_cmdWord .., rsvdField_cmdWord ..⟩

theorem add2 (b0 b1 : Byte) : Statement (.add2 b0 b1) := ⟨opField_cmdWord .., rsvdField_cmdWord ..⟩

theorem add1 (b0 : Byte) : Statement (.add1 b0) := ⟨opField_cmdWord .., rsvdField_cmdWord ..⟩

theorem buf : Statement .buf := ⟨opField_cmdWord .., rsvdField_cmdWord ..⟩

end Sys2Proof.Laws.FixedFields
end

