-- ==== Sys2Proof/Laws/Port.lean ====
section
/-! SUPPORT. What the shared operations of the register port do: the interlock, the address decoder, the issue of a
command. -/

namespace Sys2Proof.Machine

theorem State.unlessBusy_idle {s : State} {f : State → State} (h : s.busy = false) : s.unlessBusy f = f s := by
  simp [State.unlessBusy, h]

theorem State.unlessBusy_busy {s : State} {f : State → State} (h : s.busy = true) :
    s.unlessBusy f = s.raise .busy := by
  simp [State.unlessBusy, h]

/-- All the interlock can do. -/
theorem State.unlessBusy_cases (s : State) (f : State → State) :
    (s.busy = true ∧ s.unlessBusy f = s.raise .busy) ∨ (s.busy = false ∧ s.unlessBusy f = f s) := by
  cases h : s.busy
  · exact .inr ⟨rfl, State.unlessBusy_idle h⟩
  · exact .inl ⟨rfl, State.unlessBusy_busy h⟩

theorem State.rangeBad_iff (s : State) : s.rangeBad = true ↔ s.src.toNat + s.len.toNat > 2 ^ 32 := by
  simp [State.rangeBad]

/-- CSUM_BASE as a number: a multiple of 0x20 (R6). -/
theorem Params.base_toNat (p : Params) : (Params.base p).toNat = p.baseBlock.toNat * 32 := by
  simp only [Params.base, BitVec.toNat_append, Nat.shiftLeft_eq]
  simp

/-- A register's bus address is in the window, at the register's offset. -/
theorem Reg.addr_window (s : State) (r : Reg) :
    s.inWindow (r.addr s.params) = true ∧ regAt ((r.addr s.params).extractLsb' 0 5) = some r := by
  have h : ∀ r : Reg, r.offset.toNat < 32 := by intro r; cases r <;> decide
  have hb := Params.base_toNat s.params
  have hlt := s.params.baseBlock.isLt
  have ha : (r.addr s.params).toNat = s.params.baseBlock.toNat * 32 + r.offset.toNat := by
    have := h r
    simp only [Reg.addr, BitVec.toNat_add, hb]
    omega
  constructor
  · simp only [State.inWindow, beq_iff_eq]
    apply BitVec.eq_of_toNat_eq
    simp only [BitVec.extractLsb'_toNat, ha, Nat.shiftRight_eq_div_pow]
    have := h r
    omega
  · have e : ((r.addr s.params).extractLsb' 0 5).toNat = r.offset.toNat := by
      simp only [BitVec.extractLsb'_toNat, ha, Nat.shiftRight_eq_div_pow]
      have := h r
      omega
    unfold regAt
    rw [e]
    cases r <;> rfl

/-- The window in addresses (R20). -/
theorem State.inWindow_iff (s : State) (a : Word) : s.inWindow a = true ↔
    (Params.base s.params).toNat ≤ a.toNat ∧ a.toNat < (Params.base s.params).toNat + 0x20 := by
  simp only [State.inWindow, beq_iff_eq, ← BitVec.toNat_inj, BitVec.extractLsb'_toNat, Nat.shiftRight_eq_div_pow,
    Params.base_toNat]
  have := a.isLt
  have := s.params.baseBlock.isLt
  omega

/-- The 32-bit access at a register's address is that register's access (R51). -/
theorem State.select_addr (s : State) (r : Reg) : s.select .w32 (r.addr s.params) = .reg r := by
  obtain ⟨hw, hr⟩ := Reg.addr_window s r
  have ht : (touched .w32 (r.addr s.params)).any s.inWindow = true := by
    refine List.any_eq_true.mpr ⟨r.addr s.params, ?_, hw⟩
    exact List.mem_map.mpr ⟨0, by decide, by simp⟩
  simp [State.select, ht, hw, hr]

/-- An access that selects a register is the 32-bit access at its address (R51). -/
theorem State.select_reg {s : State} {w : Width} {a : Word} {r : Reg} (h : s.select w a = .reg r) :
    w = .w32 ∧ a = r.addr s.params := by
  unfold State.select at h
  split at h
  · split at h
    · rename_i hw
      refine ⟨hw.1, ?_⟩
      split at h
      · rename_i r' hr
        cases h
        have hin : a.extractLsb' 5 27 = s.params.baseBlock := by simpa [State.inWindow] using hw.2
        have hb := congrArg BitVec.toNat hin
        have hoff : (a.extractLsb' 0 5).toNat = r.offset.toNat := by
          revert hr; unfold regAt; split <;> intro hr <;> first | (cases hr; simp_all; done) | simp_all
          all_goals (subst hr; simp [Reg.offset])
        simp only [BitVec.extractLsb'_toNat, Nat.shiftRight_eq_div_pow] at hb hoff
        apply BitVec.eq_of_toNat_eq
        have hlt := s.params.baseBlock.isLt
        have ha := a.isLt
        simp only [Reg.addr, BitVec.toNat_add, Params.base_toNat]
        omega
      · cases h
    · cases h
  · cases h

/-- The issue of a word at an idle CSUM. -/
theorem issue_idle {s : State} {w : Word} (h : s.busy = false) :
    issue w s = match decode w with
      | some i => exec i s
      | none => .next (s.raise .illegal) := by
  unfold issue
  cases decode w with
  | some i => rfl
  | none => simp only [State.unlessBusy_idle h]

/-- The issue of any word at a busy CSUM. -/
theorem issue_busy {s : State} {w : Word} (h : s.busy = true) : issue w s = .next (s.raise .busy) := by
  unfold issue
  split
  · rename_i i _
    cases i <;> simp [exec, execNop, execClear, execAdd2, execAdd1, execBuf, State.unlessBusy_busy h]
  · rw [State.unlessBusy_busy h]

end Sys2Proof.Machine
end

