-- ==== Sys2Proof/Laws/Step.lean ====
section
/-! SUPPORT. Whose step a step is, and what the engine's step can do. -/

namespace Sys2Proof.Machine

theorem step_of_host {s : State} (h : s.nextTurn = .host) : step s = hostTurn s.popTurn := by
  simp [step, takeTurn, h]

theorem step_of_engine {s : State} (h : s.nextTurn = .engine) : step s = .next (engineStep s.popTurn) := by
  simp [step, takeTurn, h]

theorem step_of_reset {s : State} (h : s.nextTurn = .reset) : step s = .next s.popTurn.resetStep := by
  simp [step, takeTurn, h]

/-- An offered operation is the next step's. -/
theorem step_offer (s : State) (op : HostOp) : step (s.offer op) = hostStep op s := rfl

/-- A granted engine turn is the next step's. -/
theorem step_grant_engine (s : State) : step (s.grant .engine) = .next (engineStep s) := rfl

/-- A granted reset is the next step's. -/
theorem step_grant_reset (s : State) : step (s.grant .reset) = .next s.resetStep := rfl

/-- A register write's step: the port answers, and the register's rule is applied. -/
theorem hostStep_write_reg (s : State) (r : Reg) (v : Word) :
    hostStep (hostWR s.params r v) s = writeReg r v (s.respond .done) := by
  simp [hostStep, hostWR, State.select_addr]

/-- A register read's step: the port answers with the register's number. -/
theorem hostStep_read_reg (s : State) (r : Reg) :
    hostStep (hostRD s.params r) s = .next (s.respond (.value (s.readReg r))) := by
  simp [hostStep, hostRD, State.select_addr]

/-- With BUSY = 0 no engine step is enabled. -/
theorem engineStep_idle {s : State} (h : s.busy = false) : engineStep s = s := by simp [engineStep, h]

/-- All the engine's step can do: nothing, a byte taken, the abort, the commit. -/
theorem engineStep_cases (s : State) :
    (engineStep s = s ∧ (s.busy = false ∨ s.engLen.toNat < s.engBytes.length)) ∨
    (∃ b, engineStep s = (s.noteRead s.engineAddr).pushByte b ∧ s.busy = true ∧
      s.engBytes.length < s.engLen.toNat ∧ s.memRead s.engineAddr = .byte b) ∨
    (engineStep s = (s.noteRead s.engineAddr).abort ∧ s.busy = true ∧
      s.engBytes.length < s.engLen.toNat ∧ s.memRead s.engineAddr = .busError) ∨
    (engineStep s = s.commit ∧ s.busy = true ∧ s.engBytes.length = s.engLen.toNat) := by
  unfold engineStep
  cases hb : s.busy
  · exact .inl ⟨by simp, .inl rfl⟩
  · by_cases hl : s.engBytes.length < s.engLen.toNat
    · cases hm : s.memRead s.engineAddr with
      | byte b =>
        exact .inr (.inl ⟨b, by simp [hl, State.engineRead, State.takeAnswer, hm], rfl, hl, rfl⟩)
      | busError =>
        exact .inr (.inr (.inl ⟨by simp [hl, State.engineRead, State.takeAnswer, hm], rfl, hl, rfl⟩))
    · by_cases he : s.engBytes.length = s.engLen.toNat
      · exact .inr (.inr (.inr ⟨by simp [he], rfl, he⟩))
      · exact .inl ⟨by simp [hl, he], .inr (by omega)⟩

/-- All a step can be: a reset, an engine step, a host's turn with nothing pending, or a host's operation. -/
theorem step_cases {s t : State} (h : step s = .next t) :
    (s.nextTurn = .reset ∧ t = s.popTurn.resetStep) ∨
    (s.nextTurn = .engine ∧ t = engineStep s.popTurn) ∨
    (s.nextTurn = .host ∧ s.host = [] ∧ t = s.popTurn) ∨
    (∃ op rest, s.nextTurn = .host ∧ s.host = op :: rest ∧
      hostStep op { s.popTurn with host := rest } = .next t) := by
  cases hn : s.nextTurn with
  | reset => rw [step_of_reset hn] at h; cases h; exact .inl ⟨rfl, rfl⟩
  | engine => rw [step_of_engine hn] at h; cases h; exact .inr (.inl ⟨rfl, rfl⟩)
  | host =>
    rw [step_of_host hn] at h
    unfold hostTurn at h
    rw [State.popTurn_host] at h
    cases hh : s.host with
    | nil => rw [hh] at h; cases h; exact .inr (.inr (.inl ⟨rfl, rfl, rfl⟩))
    | cons op rest => rw [hh] at h; exact .inr (.inr (.inr ⟨op, rest, rfl, rfl, h⟩))

/-- All a host's operation can be: a register write, or one that changes no register, flag or engine state. -/
theorem hostStep_cases {op : HostOp} {s t : State} (h : hostStep op s = .next t) :
    (∃ r v, op = hostWR s.params r v ∧ writeReg r v (s.respond .done) = .next t) ∨
    ((∀ r v, op ≠ hostWR s.params r v) ∧
      t = { s with mem := t.mem, raceLog := t.raceLog, host := t.host, responses := t.responses }) := by
  cases op with
  | read w a =>
    refine .inr ⟨by intro r v e; simp [hostWR] at e, ?_⟩
    simp only [hostStep] at h
    split at h <;> cases h <;> rfl
  | poll r mask v =>
    refine .inr ⟨by intro r v e; simp [hostWR] at e, ?_⟩
    simp only [hostStep] at h
    split at h <;> cases h <;> rfl
  | store a b =>
    refine .inr ⟨by intro r v e; simp [hostWR] at e, ?_⟩
    simp only [hostStep] at h
    split at h <;> cases h <;> rfl
  | write w a v =>
    simp only [hostStep] at h
    have hne : (∀ r, s.select w a ≠ .reg r) → ∀ r x, (HostOp.write w a v) ≠ hostWR s.params r x := by
      intro hs r x e
      simp only [hostWR, HostOp.write.injEq] at e
      obtain ⟨rfl, rfl, -⟩ := e
      exact hs r (s.select_addr r)
    split at h
    · rename_i r hr
      obtain ⟨rfl, rfl⟩ := State.select_reg hr
      exact .inl ⟨r, v, rfl, h⟩
    · rename_i hr
      cases h
      refine .inr ⟨hne (by simp [hr]), ?_⟩
      rw [State.forgetOutside_eq]
      rfl
    · rename_i hr
      cases h
      refine .inr ⟨hne (by simp [hr]), ?_⟩
      rw [State.forgetOutside_host, State.forgetOutside_responses]
      exact State.forgetOutside_eq s w a

/-- A host's operation keeps the canonical form of memory when a register write does. -/
theorem hostStep_mem_wf {op : HostOp} {s t : State} (h : hostStep op s = .next t) (hm : s.mem.wf = true)
    (hw : ∀ r v, writeReg r v (s.respond .done) = .next t → t.mem = s.mem) : t.mem.wf = true := by
  cases op with
  | read w a => simp only [hostStep] at h; split at h <;> cases h <;> exact hm
  | poll r mask v => simp only [hostStep] at h; split at h <;> cases h <;> exact hm
  | store a b =>
    simp only [hostStep] at h
    split at h <;> cases h
    · exact hm
    · exact State.storeByte_wf hm
  | write w a v =>
    simp only [hostStep] at h
    split at h
    · rw [hw _ _ h]; exact hm
    · cases h; exact State.forgetOutside_wf hm
    · cases h; exact State.forgetOutside_wf hm

end Sys2Proof.Machine
end

