-- ==== Sys2Proof/Laws/Run.lean ====
section
/-! SUPPORT. What a command, a register write and a read by the engine can do, and the unfolding of a run. -/

namespace Sys2Proof.Machine

/-- Register writes differ in their register or their value. -/
theorem hostWR_inj {p : Params} {r r' : Reg} {v v' : Word} : hostWR p r v = hostWR p r' v' ↔ r = r' ∧ v = v' := by
  constructor
  · intro h
    simp only [hostWR, HostOp.write.injEq, Reg.addr] at h
    obtain ⟨-, h, rfl⟩ := h
    have h := (BitVec.add_right_inj _).mp h
    refine ⟨?_, rfl⟩
    revert h
    cases r <;> cases r' <;> decide
  · rintro ⟨rfl, rfl⟩
    rfl

/-- All a command can do at an idle CSUM. -/
theorem exec_idle_cases {i : Instr} {s t : State} (hb : s.busy = false) (h : exec i s = .next t) :
    (i = .nop ∧ t = s) ∨
    (i = .clear ∧ t = { s with acc := 0#32, ovf := false, tail := false, tailv := false }) ∨
    (∃ b0 b1, i = .add2 b0 b1 ∧ t = s.addData (wordOf s.params.hostEndian b0 b1)) ∨
    (∃ b0, i = .add1 b0 ∧ t = { s.addData (tailOf b0) with tail := true }) ∨
    (i = .buf ∧ s.rangeBad = true ∧ t = s.raise .range) ∨
    (i = .buf ∧ s.rangeBad = false ∧ s.len = 0#32 ∧ t = s) ∨
    (i = .buf ∧ s.rangeBad = false ∧ s.len ≠ 0#32 ∧ t = s.startEngine) := by
  cases i with
  | nop => simp only [exec, execNop, State.unlessBusy_idle hb] at h; cases h; simp
  | clear => simp only [exec, execClear, State.unlessBusy_idle hb] at h; cases h; simp [initialAcc]
  | add2 b0 b1 => simp only [exec, execAdd2, State.unlessBusy_idle hb] at h; cases h; simp
  | add1 b0 => simp only [exec, execAdd1, State.unlessBusy_idle hb] at h; cases h; simp
  | buf =>
    simp only [exec, execBuf, State.unlessBusy_idle hb] at h
    cases hr : s.rangeBad
    · by_cases h0 : s.len = 0#32
      · simp only [hr, if_pos h0] at h; cases h; simp [h0]
      · simp only [hr, if_neg h0] at h; cases h; simp [h0]
    · simp only [hr] at h; cases h; simp

/-- A command at a busy CSUM. -/
theorem exec_busy {i : Instr} {s : State} (hb : s.busy = true) : exec i s = .next (s.raise .busy) := by
  cases i <;> simp [exec, execNop, execClear, execAdd2, execAdd1, execBuf, State.unlessBusy_busy hb]

/-- All a register write can do. -/
theorem writeReg_cases {r : Reg} {v : Word} {s t : State} (h : writeReg r v s = .next t) :
    ((r = .id ∨ r = .result ∨ r = .rsvd) ∧ t = s) ∨
    (r = .status ∧ t = s.writeStatus v) ∨
    ((r = .cmd ∨ r = .acc ∨ r = .src ∨ r = .len) ∧ s.busy = true ∧ t = s.raise .busy) ∨
    (s.busy = false ∧ (r = .acc ∧ t = { s with acc := v } ∨ r = .src ∧ t = { s with src := v } ∨
      r = .len ∧ t = { s with len := v })) ∨
    (s.busy = false ∧ r = .cmd ∧ decode v = none ∧ t = s.raise .illegal) ∨
    (s.busy = false ∧ r = .cmd ∧ ∃ i, decode v = some i ∧ exec i s = .next t) := by
  cases hb : s.busy
  · cases r with
    | cmd =>
      simp only [writeReg, issue_idle hb] at h
      cases hd : decode v with
      | none => rw [hd] at h; cases h; simp
      | some i => rw [hd] at h; exact .inr (.inr (.inr (.inr (.inr ⟨rfl, rfl, i, rfl, h⟩))))
    | _ => simp only [writeReg, State.unlessBusy_idle hb] at h; cases h; simp [hb]
  · cases r <;> simp only [writeReg, State.unlessBusy_busy hb, issue_busy hb] at h <;> cases h <;> simp

/-- The race log lists no value for a location that nothing raced. -/
theorem State.racedValues_quiet {s : State} {a : Nat} (h : ∀ c ∈ s.raceLog, c.1 ≠ a) : s.racedValues a = [] := by
  simp only [State.racedValues, List.map_eq_nil_iff, List.filter_eq_nil_iff, beq_iff_eq]
  exact h

/-- What the race log lists for a location is a value some store to it made its read able to give. -/
theorem State.mem_racedValues {s : State} {a : Nat} {v : Option Byte} (h : v ∈ s.racedValues a) :
    (a, v) ∈ s.raceLog := by
  obtain ⟨c, hc, rfl⟩ := List.mem_map.mp h
  obtain ⟨hc, e⟩ := List.mem_filter.mp hc
  rw [beq_iff_eq] at e
  exact e ▸ hc

/-- A free number picks one of the candidates. -/
theorem pickCandidate_mem (k : Nat) (c : Option Byte) (cs : List (Option Byte)) : pickCandidate k (c :: cs) ∈ c :: cs := by
  cases cs with
  | nil => exact List.mem_cons_self
  | cons d ds =>
    have h : k % ((d :: ds).length + 1) < (c :: d :: ds).length := Nat.mod_lt _ (Nat.succ_pos _)
    simp only [pickCandidate, List.getD_eq_getElem?_getD, List.getElem?_eq_getElem h, Option.getD_some]
    exact List.getElem_mem h

/-- All a settled byte can be: the byte read, or one a race may have made of it. -/
theorem State.settledByte_cases (s : State) (i : Nat) (b : Byte) :
    s.settledByte i b = b ∨ ∃ c ∈ s.raceLog, c.1 = (s.engSrc + BitVec.ofNat 32 i).toNat ∧
      (c.2 = none ∨ c.2 = some (s.settledByte i b)) := by
  unfold State.settledByte
  split
  · exact .inl rfl
  · rename_i c cs hv
    generalize Config.settleChoice _ _ = k
    generalize Config.settleByte _ _ = x
    rcases List.mem_cons.mp (pickCandidate_mem k (some b) (c :: cs)) with h | h
    · rw [h]; exact .inl rfl
    · generalize pickCandidate k (some b :: c :: cs) = v at h
      have hm : ((s.engSrc + BitVec.ofNat 32 i).toNat, v) ∈ s.raceLog := State.mem_racedValues (by rw [hv]; exact h)
      refine .inr ⟨_, hm, rfl, ?_⟩
      cases v with
      | none => exact .inl rfl
      | some v => exact .inr rfl

@[simp] theorem State.settledBytes_length (s : State) : s.settledBytes.length = s.engBytes.length :=
  List.length_mapIdx

/-- The bytes read are summed as they are where nothing raced them. -/
theorem State.settledBytes_quiet {s : State}
    (h : ∀ i < s.engBytes.length, ∀ c ∈ s.raceLog, c.1 ≠ (s.engSrc + BitVec.ofNat 32 i).toNat) :
    s.settledBytes = s.engBytes := by
  apply List.ext_getElem (by simp)
  intro i hi hj
  simp only [State.settledBytes, List.getElem_mapIdx, State.settledByte]
  rw [State.racedValues_quiet (h i hj)]

@[simp] theorem State.popTurn_settledBytes (s : State) : s.popTurn.settledBytes = s.settledBytes := rfl

/-- A location that nothing raced has one candidate: what memory holds. -/
theorem State.candidates_quiet {s : State} {a : Nat} (h : ∀ c ∈ s.raceLog, c.1 ≠ a) :
    s.candidates a = [s.mem.read a] := by
  simp [State.candidates, State.racedValues_quiet h]

/-- The schedule's end: no turn is taken off it. -/
theorem State.popTurn_nil {s : State} (h : s.sched = []) : s.popTurn = s := by
  unfold State.popTurn
  rw [h, List.tail_nil, ← h]

theorem run_zero (s : State) : run 0 s = .next s := rfl

/-- A run's first step. -/
theorem run_succ {s t : State} (k : Nat) (h : step s = .next t) : run (k + 1) s = run k t := by
  have h' : Sys2Proof.core.step s = .next t := h
  simp only [run, Host.Core.run, h']
  rfl

end Sys2Proof.Machine
end

