-- ==== Sys2Proof/Tests/Slice0.lean ====
section
/-! SUPPORT. Tests of the model against values of the spec (95_test_vectors.md unless a docstring says otherwise), and
for every statement with hypotheses a named witness that meets them together. -/

namespace Sys2Proof.Tests

open Sys2Proof Sys2Proof.Machine

/-! ### The assembler's checks, and the words of the commands -/

/-- R77: an operand outside 0 to 255 is refused, in each place. -/
theorem test_wellFormed_refuses :
    Asm.wellFormed (.add2 256 0) = false ∧ Asm.wellFormed (.add2 0 256) = false ∧
    Asm.wellFormed (.add1 256) = false ∧ Asm.wellFormed (.add2 255 255) = true := by decide

theorem test_assemble_refuses :
    assemble (.add2 256 0) = none ∧ assemble (.add2 0 256) = none ∧ assemble (.add1 256) = none := by decide

/-- R77's examples of form: decimal and hexadecimal operands, and a wrong number of them. -/
theorem test_assembleText :
    assembleText "ADD2 0x12, 0x34".toList = some 0x00341202#32 ∧ assembleText "ADD1 255".toList = some 0x0000FF03#32 ∧
    assembleText "ADD1 256".toList = none ∧ assembleText "ADD2 1".toList = none ∧
    assembleText "CLEAR".toList = some 1#32 ∧ assembleText "FOO".toList = none := by decide

/-- The words of 30_encoding.md R73's patterns, RSVD, B1, B0 and OP written out bit by bit. -/
theorem test_decode_nop : decode 0b00000000_00000000_00000000_00000000#32 = some .nop := by decide
theorem test_decode_clear : decode 0b00000000_00000000_00000000_00000001#32 = some .clear := by decide
theorem test_decode_add2 :
    decode 0b00000000_00110100_00010010_00000010#32 = some (.add2 0b00010010#8 0b00110100#8) := by decide
theorem test_decode_add1 : decode 0b00000000_00000000_10000001_00000011#32 = some (.add1 0b10000001#8) := by decide
theorem test_decode_buf : decode 0b00000000_00000000_00000000_00000100#32 = some .buf := by decide

/-- DC9 to DC14. -/
theorem test_decode_illegal :
    [0x00000100#32, 0x01000002#32, 0x00010003#32, 0x00000104#32, 0x00000005#32, 0x000000FF#32, 0xFFFFFFFF#32].all
      (fun w => decode w = none) = true := by decide

/-! ### The arithmetic -/

/-- The header of E7. -/
def header : List Byte :=
  [0x45, 0x00, 0x00, 0x73, 0x00, 0x00, 0x40, 0x00, 0x40, 0x11, 0x00, 0x00, 0xC0, 0xA8, 0x00, 0x01, 0xC0, 0xA8,
    0x00, 0xC7]

/-- A6, A9 and A12. -/
theorem test_sum :
    (sumBytes .little 0#32 [0x12, 0x34, 0x56]).1 = 0x00003468#32 ∧
    (sumBytes .big 0#32 [0x12, 0x34, 0x56]).1 = 0x0000128A#32 ∧
    checksum .little [0xFF, 0x00, 0xFF] = 0xFE01#16 ∧ checksum .big [0xFF, 0x00, 0xFF] = 0x0000#16 ∧
    checksum .little header = 0x61B8#16 ∧ checksum .big header = 0xB861#16 := by decide

/-- A13, A16 and A19 to A25. -/
theorem test_result :
    result 0x00000000#32 = 0xFFFF#16 ∧ result 0x00010000#32 = 0xFFFE#16 ∧ result 0x7FFF80FF#32 = 0xFF00#16 ∧
    result 0x7FFFFFFF#32 = 0x8000#16 ∧ result 0x80000000#32 = 0x8000#16 ∧ result 0x80007FFF#32 = 0x0001#16 ∧
    result 0xFFFF0000#32 = 0x0001#16 ∧ result 0xFFFFFFFF#32 = 0x0001#16 ∧ result 0x8000FFFE#32 = 0x8001#16 := by
  decide

/-- A26 to A31. -/
theorem test_accAdd :
    accAdd 0x7FFFFFFF#32 0x0001#16 = (0x80000000#32, true) ∧ accAdd 0x7FFFFFFF#32 0#16 = (0x7FFFFFFF#32, false) ∧
    accAdd 0x7FFF0000#32 0xFFFF#16 = (0x7FFFFFFF#32, false) ∧ accAdd 0x7FFFFF00#32 0x0100#16 = (0x80000000#32, true) ∧
    accAdd 0x80000000#32 0xFFFF#16 = (0x8000FFFF#32, false) ∧ accAdd 0xFFFFFFFF#32 1#16 = (0#32, false) := by decide

/-! ### States for the steps -/

/-- A window base that is not the reset's: 0x20 * 0x400 = 0x8000. -/
def params (e : Endian) : Params := ⟨e, 0x400#27⟩

/-- A state with the ACC and the STATUS of a test vector's row (R28). -/
def st (e : Endian) (acc status : Word) : State :=
  { State.resetWith (params e) with
    acc := acc
    busy := status.getLsbD 0
    ovf := status.getLsbD 1
    tail := status.getLsbD 2
    tailv := status.getLsbD 3
    err := status.getLsbD 4
    errcode := status.extractLsb' 8 4 }

/-- SRC and LEN set. -/
def at_ (s : State) (src len : Word) : State := { s with src := src, len := len }

/-- Bytes of ordinary memory from 0x1000 upward. -/
def memAt (m : List Byte) : Memory := (List.range m.length).zip m |>.map fun c => (0x1000 + c.1, c.2)

/-- A BUF over `m` at 0x1000, accepted in `s`, with nothing read. -/
def flying (s : State) (m : List Byte) : State :=
  { (at_ s 0x1000#32 (BitVec.ofNat 32 m.length)).startEngine with mem := memAt m }

/-- The same with all bytes read. -/
def landed (s : State) (m : List Byte) : State := { flying s m with engBytes := m }

/-- The state after a step. -/
def nextOf : Host.Outcome State Fault Refusal → State
  | .next s => s
  | .fault _ => State.reset
  | .refused _ => State.reset

/-- ACC, STATUS and RESULT after a step. -/
def seen (o : Host.Outcome State Fault Refusal) : Word × Word × Word :=
  ((nextOf o).acc, (nextOf o).statusWord, (nextOf o).readReg .result)

/-- The step that writes the word `w` to CMD at `s`. -/
def cmd (s : State) (w : Word) : Host.Outcome State Fault Refusal := step (s.offer (hostWR s.params .cmd w))

/-- The step that writes `v` to a register. -/
def wr (s : State) (r : Reg) (v : Word) : State := nextOf (step (s.offer (hostWR s.params r v)))

/-- The port's answer to the step that reads a register. -/
def rd (s : State) (r : Reg) : List Response := (nextOf (step (s.offer (hostRD s.params r)))).responses

/-! ### The commands -/

/-- B1. -/
theorem test_nop : seen (cmd (st .little 0x1234 0) 0x00000000) = (0x1234, 0, 0xEDCB) := by decide

/-- R53: a NOP while BUSY = 1 raises BUSY. -/
theorem test_nop_busy : (nextOf (cmd (st .little 0x1234 1) 0)).statusWord = 0x211 := by decide

/-- B3. -/
theorem test_clear_keeps_error : seen (cmd (st .big 5 0x314) 0x00000001) = (0, 0x310, 0xFFFF) := by decide

/-- B4. -/
theorem test_clear_keeps_src : (nextOf (cmd (at_ (st .big 7 0) 0x1000 20) 1)).src = 0x1000 := by decide

/-- B5 and B6. -/
theorem test_add2_overflow :
    seen (cmd (st .little 0x7FFFFFFF 0) 0x00FFFF02) = (0x8000FFFE, 0x2, 0x8001) ∧
    seen (cmd (st .big 0x80000000 0) 0x00FFFF02) = (0x8000FFFF, 0, 0x8000) := by decide

/-- B8 and B9. -/
theorem test_add2_order_and_tailv :
    seen (cmd (st .little 0 0) 0x00341202) = (0x3412, 0, 0xCBED) ∧
    seen (cmd (st .big 0 0) 0x00341202) = (0x1234, 0, 0xEDCB) ∧
    seen (cmd (st .big 1 0x4) 0x00000002) = (1, 0xC, 0xFFFE) := by decide

/-- B11 and B13. -/
theorem test_add1_unshifted :
    seen (cmd (st .little 0 0) 0x0000FF03) = (0xFF, 0x4, 0xFF00) ∧
    seen (cmd (st .big 0 0) 0x0000FF03) = (0xFF, 0x4, 0xFF00) ∧
    seen (cmd (st .big 1 0x4) 0x00000103) = (2, 0xC, 0xFFFD) := by decide

/-- B14 and B16. -/
theorem test_add1_overflow :
    seen (cmd (st .little 0x7FFFFFFF 0) 0x00000103) = (0x80000000, 0x6, 0x8000) ∧
    seen (cmd (st .big 0xFFFFFFFF 0) 0x00000103) = (0, 0x4, 0xFFFF) := by decide

/-- B23 and B24, and the operands of B25, whose sum is 2^32: legal by R125 (log 9). -/
theorem test_buf_range :
    seen (cmd (at_ (st .little 9 0) 0xFFFFFFFF 2) 4) = (9, 0x310, 0xFFF6) ∧
    seen (cmd (at_ (st .little 9 0) 0xFFFFFFFF 0) 4) = (9, 0, 0xFFF6) ∧
    seen (cmd (at_ (st .little 9 0) 1 0xFFFFFFFF) 4) = (9, 0x001, 0xFFF6) := by decide

/-- B22's acceptance: SRC + LEN = 2^32 starts the engine. -/
theorem test_buf_starts :
    (nextOf (cmd (at_ (st .little 0 0) 0xFFFFFFFF 1) 4)).busy = true ∧
    (nextOf (cmd (at_ (st .little 0 0) 0xFFFFFFFF 1) 4)).engSrc = 0xFFFFFFFF := by decide

/-! ### The engine -/

/-- B18's first read (at 0x1000 here): one byte taken, one read performed. -/
theorem test_engine_read :
    (nextOf (step (flying (st .big 0 0) [0x12, 0x34, 0x56]))).engBytes = [0x12] ∧
    (nextOf (step (flying (st .big 0 0) [0x12, 0x34, 0x56]))).engineReads = [0x1000] := by decide

/-- B17, B20 and B21: the commits. -/
theorem test_engine_commit :
    seen (step (landed (st .little 0 0) header)) = (0x00029E45, 0, 0x61B8) ∧
    seen (step (landed (st .big 0 0) header)) = (0x0002479C, 0, 0xB861) ∧
    seen (step (landed (st .big 1 0x4) [0, 0])) = (1, 0xC, 0xFFFE) ∧
    seen (step (landed (st .little 0x7FFFFFFF 0) [0x00, 0x01])) = (0x800000FF, 0x2, 0x7F01) ∧
    seen (step (landed (st .big 0x7FFFFFFF 0) [0x00, 0x01])) = (0x80000000, 0x2, 0x8000) ∧
    seen (step (landed (st .big 0 0) [0x12, 0x34, 0x56])) = (0x128A, 0x4, 0xED75) := by decide

/-- B26: the read that is answered with a bus error. -/
theorem test_engine_abort :
    seen (step { flying (st .little 5 0) [1, 2, 3, 4] with engBytes := [1, 2], busErrs := [0x1002] }) =
      (5, 0x410, 0xFFFA) := by decide

/-! ### The register port, errors and reset -/

/-- RA1 to RA3. -/
theorem test_read_constants :
    rd (st .little 7 0) .id = [.value 0x43530100] ∧ rd (st .big 7 0) .id = [.value 0x43530101] ∧
    rd (st .big 7 0x31E) .cmd = [.value 0] ∧ rd (st .big 7 0x31E) .rsvd = [.value 0] ∧
    rd (st .big 7 0x31E) .status = [.value 0x31E] := by decide

/-- RA4 to RA7. -/
theorem test_write_status :
    (wr (st .little 0x1234 0) .result 0).readReg .result = 0xEDCB ∧
    (wr (st .little 0 0x31E) .status 0x1A).statusWord = 0x4 ∧ (wr (st .little 0 0x31E) .status 0x10).statusWord = 0x0E ∧
    (wr (st .little 0 0x31E) .status 0xFFFFFFE5).statusWord = 0x31E := by decide

/-- RA8 and RA9. -/
theorem test_busy_interlock :
    (wr (at_ (st .little 0 1) 0 8) .len 0).len = 8 ∧ (wr (at_ (st .little 0 1) 0 8) .len 0).statusWord = 0x211 ∧
    seen (cmd (st .little 6 0x211) 1) = (6, 0x211, 0xFFF9) := by decide

/-- RA12: a byte, a halfword, an unaligned and a doubleword access. -/
theorem test_other_accesses :
    [(Width.w8, 0x8000#32), (.w16, 0x8004#32), (.w32, 0x8002#32), (.w64, 0x8008#32)].all (fun c =>
      (nextOf (step ((st .little 7 0).offer (.read c.1 c.2)))).responses = [.busError] ∧
      (nextOf (step ((st .little 7 0).offer (.write c.1 c.2 0)))).statusWord = 0) = true := by decide

/-- The two priorities named in section 2.6. -/
theorem test_error_priority :
    (nextOf (cmd (st .little 0 1) 0x00000005)).statusWord = 0x211 ∧
    (nextOf (cmd (at_ (st .little 0 0) 0xFFFFFFFF 2) 0x00000104)).statusWord = 0x110 := by decide

/-- RS2: reset during a BUF. -/
theorem test_reset_in_flight :
    seen (step ((flying (st .little 9 0x31E) [1, 2, 3]).grant .reset)) = (0, 0, 0xFFFF) ∧
    (nextOf (step ((flying (st .little 9 0x31E) [1, 2, 3]).grant .reset))).len = 0 := by decide

/-- The placed word runs as the first after reset, and a written word is read from the table's numbering. -/
theorem test_first_after_reset :
    seen (step (State.reset.withFetchWord 32 0x00000103)) = (1, 0x4, 0xFFFE) ∧
    decodeTableWord 32 0x00000103 = some (.add1 1) := by decide

/-- ST8 (R78) keeps memory in order. -/
theorem test_store_order :
    (nextOf (step ({ st .little 0 0 with mem := [(1, 0xAA), (9, 0xBB)] }.offer (.store 5 0xCC)))).mem =
      [(1, 0xAA), (5, 0xCC), (9, 0xBB)] := by decide

/-! ### Witnesses: states and operands that meet a statement's hypotheses together

`witness_<Statement>` (with a suffix where it has several clauses); the boundary values of a clause's range where it has
one. -/

/-- An idle and a busy state with an error recorded, and ones with none. -/
def idle : State := st .little 0x7FFFFFFF 0
def idleErr : State := st .big 0x7FFFFFFF 0x31E
def busy : State := flying idle [1, 2]
def busyErr : State := flying (st .big 5 0x214) [1, 2]

theorem inv_of_witness : idle.Inv ∧ idleErr.Inv ∧ busy.Inv ∧ busyErr.Inv ∧ (landed idle [1, 2]).Inv := by
  refine ⟨?_, ?_, ?_, ?_, ?_⟩ <;> constructor <;> decide

theorem witness_DecodeInvertsEncode : decode 0x00FFFF02#32 = some (.add2 0xFF#8 0xFF#8) := by decide

theorem witness_OpcodeMapSelectsCommand :
    decode 0x00FFFF02#32 ≠ none ∧ decode 0x00000004#32 ≠ none ∧ decode 0x01000002#32 = none := by decide

theorem witness_IllegalWordOnlyRecordsError : idle.busy = false ∧ decode 0x00000005#32 = none := by decide

theorem witness_StepRunsDecodedCommand :
    (idle.offer (hostCMD idle.params .buf)).nextTurn = .host ∧
    (idle.offer (hostCMD idle.params .buf)).host = .write .w32 (Params.base idle.params + 4#32) 4#32 :: [] ∧
    decode 4#32 = some .buf := by decide

theorem witness_StepRunsDecodedCommand_placed : decodeTableWord 32 0x00FFFF02 = some (.add2 0xFF 0xFF) := by decide

theorem witness_IssueChecksBusyThenDecodes :
    busy.busy = true ∧ idle.busy = false ∧ decode 0x00000005#32 = none ∧ decode 0x00000004#32 = some .buf ∧
    decode 0x00000000#32 = some .nop ∧ Instr.nop ≠ .buf := by decide

theorem witness_BusyLocksOperandRegisters : busy.busy = true ∧ busyErr.busy = true := by decide

theorem witness_IdleRegisterWritesStore : idle.busy = false := by decide

theorem witness_ReadOnlyWritesIgnored : Reg.rsvd = .id ∨ Reg.rsvd = .result ∨ Reg.rsvd = .rsvd := by decide

/-- A commit after a STATUS write sets OVF and TAILV again. -/
theorem witness_StatusWriteOneToClear : ∃ s t : State, s.commits ∧ step s = .next t ∧
    (sumBytes s.params.hostEndian s.engAcc0 s.settledBytes).2 = true ∧ s.engTail0 = true :=
  ⟨landed (st .little 0x7FFFFFFF 4) [1, 0], _, ⟨by decide, by decide, by decide⟩, rfl, by decide, by decide⟩

/-- A byte access of the window's first byte, an unaligned word at its last byte, and a doubleword inside. -/
theorem witness_OtherWindowAccessesRefused :
    [(Width.w8, 0x8000#32), (.w32, 0x801F#32), (.w64, 0x8018#32)].all (fun c =>
      decide ((Params.base idle.params).toNat ≤ c.2.toNat ∧ c.2.toNat < (Params.base idle.params).toNat + 0x20 ∧
        (c.1 ≠ .w32 ∨ c.2.toNat % 4 ≠ 0))) = true := by decide

/-- A doubleword whose last byte is the window's first, and a halfword that does the same. -/
theorem witness_AccessesTouchingWindowRefused :
    (∃ y ∈ touched .w64 0x7FF9#32, idle.inWindow y = true) ∧ idle.inWindow 0x7FF9#32 = false ∧
    (∃ y ∈ touched .w16 0x7FFF#32, idle.inWindow y = true) ∧ idle.inWindow 0x7FFF#32 = false :=
  ⟨⟨0x8000#32, List.mem_map.mpr ⟨7, by decide, by decide⟩, by decide⟩, by decide,
    ⟨0x8000#32, List.mem_map.mpr ⟨1, by decide, by decide⟩, by decide⟩, by decide⟩

/-- A canonical memory that lists the byte just below the window, which a halfword write to it touches. -/
theorem witness_AccessesTouchingWindowRefused_forgets :
    (let s : State := { idle with mem := [(0x7FFF, 0xAB)] }
     s.mem.wf = true ∧ s.inWindow 0x7FFF#32 = false ∧ Memory.read s.mem 0x7FFF ≠ none ∧
      s.inWindow 0x8000#32 = true) ∧
    0x7FFF#32 ∈ touched .w16 0x7FFF#32 ∧ 0x8000#32 ∈ touched .w16 0x7FFF#32 :=
  ⟨by decide, List.mem_map.mpr ⟨0, by decide, by decide⟩, List.mem_map.mpr ⟨1, by decide, by decide⟩⟩

/-- The register accesses at the first and the last offset. -/
theorem witness_OtherWindowAccessesRefused_registers :
    idle.select .w32 0x8000#32 = .reg .id ∧ idle.select .w32 0x801C#32 = .reg .rsvd := by decide

theorem witness_PollRepeatsUntilMet :
    idle.readReg .status &&& 1#32 = 0#32 ∧ busy.readReg .status &&& 1#32 ≠ 0#32 := by decide

theorem witness_RaiseKeepsFirstError : idle.err = false ∧ idleErr.err = true := by decide

/-- A step that keeps the error (CLEAR), a STATUS write and a reset that clear it. -/
theorem witness_ErrorClearedOnlyByStatusOrReset :
    (∃ t, step (idleErr.offer (hostCMD idleErr.params .clear)) = .next t ∧ idleErr.err = true) ∧
    (∃ s t : State, step s = .next t ∧ s.err = true ∧ t.err = false ∧ s.nextTurn = .reset) ∧
    (∃ s t : State, step s = .next t ∧ s.err = true ∧ t.err = false ∧ s.hostWrites .status 0x10#32) :=
  ⟨⟨_, rfl, rfl⟩, ⟨idleErr.grant .reset, _, rfl, rfl, rfl, rfl⟩,
    ⟨idleErr.offer (hostWR idleErr.params .status 0x10), _, rfl, rfl, rfl, rfl, rfl⟩⟩

theorem witness_ErrorsDoNotBlockCommands : idle.err = false ∧ busy.err = false := by decide

/-- R146's last clause: an engine read answered with a bus error. -/
theorem witness_ErrorPriority_busErr : ∃ s t : State, step s = .next t ∧ s.err = false ∧ t.err = true ∧ s.aborts :=
  ⟨{ busy with busErrs := [0x1000] }, nextOf (step { busy with busErrs := [0x1000] }), rfl, rfl, by decide,
    rfl, by decide, by decide, by decide⟩

/-- Each line of the priority: BUSY before ILLEGAL, ILLEGAL before RANGE, RANGE at 2^32 + 1 and not at 2^32. -/
theorem witness_ErrorPriority :
    busy.err = false ∧ busy.busy = true ∧ idle.err = false ∧ idle.busy = false ∧ decode 5#32 = none ∧
    (at_ idle 0xFFFFFFFF 2).src.toNat + (at_ idle 0xFFFFFFFF 2).len.toNat = 2 ^ 32 + 1 ∧
    (at_ idle 0xFFFFFFFF 1).src.toNat + (at_ idle 0xFFFFFFFF 1).len.toNat = 2 ^ 32 := by decide

/-- A BUF accepted at the top of memory, and one that commits, one that aborts, one that a reset ends. -/
theorem witness_BusyExactlyWhileBufInFlight :
    (∃ s t : State, step s = .next t ∧ s.busy = false ∧ t.busy = true ∧ s.hostIssues .buf ∧
      s.src.toNat + s.len.toNat = 2 ^ 32) ∧
    (∃ s t : State, step s = .next t ∧ s.busy = true ∧ t.busy = false ∧ s.commits) ∧
    (∃ s t : State, step s = .next t ∧ s.busy = true ∧ t.busy = false ∧ s.aborts) ∧
    (∃ s t : State, step s = .next t ∧ s.busy = true ∧ t.busy = false ∧ s.nextTurn = .reset) :=
  ⟨⟨(at_ idle 0xFFFFFFFF 1).offer (hostCMD idle.params .buf), _, rfl, rfl, rfl, ⟨rfl, rfl, rfl⟩, by decide⟩,
    ⟨landed idle [1, 2], _, rfl, rfl, rfl, rfl, rfl, by decide⟩,
    ⟨{ flying idle [1, 2] with busErrs := [0x1000] }, nextOf (step { flying idle [1, 2] with busErrs := [0x1000] }),
      rfl, rfl, by decide, by decide, rfl, by decide, by decide⟩,
    ⟨busy.grant .reset, _, rfl, rfl, rfl, rfl⟩⟩

/-- OVF set by ADD2, ADD1 and a commit at a sum of 2^31, kept, and cleared by CLEAR. -/
theorem witness_OvfSetAndClearedOnlyAsStated :
    (∃ s t : State, step s = .next t ∧ s.hostIssues (.add2 1 0) ∧ s.acc.toInt + 1 = 2 ^ 31) ∧
    (∃ s t : State, step s = .next t ∧ s.hostIssues (.add1 1) ∧ s.acc.toInt + 1 = 2 ^ 31) ∧
    (∃ s t : State, step s = .next t ∧ s.commits ∧
      (sumBytes s.params.hostEndian s.engAcc0 s.settledBytes).2 = true) ∧
    (∃ s t : State, step s = .next t ∧ s.ovf = true ∧ s.hostIssues .clear) :=
  ⟨⟨idle.offer (hostCMD idle.params (.add2 1 0)), _, rfl, ⟨rfl, rfl, rfl⟩, by decide⟩,
    ⟨idle.offer (hostCMD idle.params (.add1 1)), _, rfl, ⟨rfl, rfl, rfl⟩, by decide⟩,
    ⟨landed idle [1, 0], _, rfl, ⟨rfl, rfl, by decide⟩, by decide⟩,
    ⟨idleErr.offer (hostCMD idleErr.params .clear), _, rfl, rfl, ⟨rfl, rfl, rfl⟩⟩⟩

/-- TAIL set by ADD1 and by the commit of one byte, and cleared by CLEAR. -/
theorem witness_TailSetAndClearedOnlyAsStated :
    (∃ s t : State, step s = .next t ∧ s.hostIssues (.add1 0)) ∧
    (∃ s t : State, step s = .next t ∧ s.commits ∧ s.engLen.toNat = 1) ∧
    (∃ s t : State, step s = .next t ∧ s.tail = true ∧ s.hostIssues .clear) :=
  ⟨⟨idle.offer (hostCMD idle.params (.add1 0)), _, rfl, ⟨rfl, rfl, rfl⟩⟩,
    ⟨landed idle [1], _, rfl, ⟨rfl, rfl, by decide⟩, by decide⟩,
    ⟨idleErr.offer (hostCMD idleErr.params .clear), _, rfl, rfl, ⟨rfl, rfl, rfl⟩⟩⟩

/-- TAILV set by ADD2 after a trailing byte and by a commit, and cleared by a STATUS write. -/
theorem witness_TailvSetAndClearedOnlyAsStated :
    (∃ s t : State, step s = .next t ∧ s.tail = true ∧ s.hostIssues (.add2 0 0)) ∧
    (∃ s t : State, step s = .next t ∧ s.commits ∧ s.engTail0 = true) ∧
    (∃ s t : State, step s = .next t ∧ s.tailv = true ∧ s.hostWrites .status 0x8#32) :=
  ⟨⟨idleErr.offer (hostCMD idleErr.params (.add2 0 0)), _, rfl, rfl, ⟨rfl, rfl, rfl⟩⟩,
    ⟨landed idleErr [1], _, rfl, ⟨rfl, rfl, by decide⟩, rfl⟩,
    ⟨idleErr.offer (hostWR idleErr.params .status 8), _, rfl, rfl, ⟨rfl, rfl⟩⟩⟩

/-- ACC, SRC and LEN each changed by a host write at the ends of their range, ACC by each of its commands, by a commit
and by reset, and SRC and LEN by reset. -/
theorem witness_AccSrcLenChangedOnlyAsStated :
    (∀ op ∈ [hostWR idle.params .acc 0, hostCMD idle.params .clear, hostCMD idle.params (.add2 1 0),
      hostCMD idle.params (.add1 1)], ∃ t, step (idle.offer op) = .next t ∧ t.acc ≠ idle.acc) ∧
    (∃ t, step (idle.offer (hostWR idle.params .src 0xFFFFFFFF)) = .next t ∧ t.src ≠ idle.src) ∧
    (∃ t, step (idle.offer (hostWR idle.params .len 0xFFFFFFFF)) = .next t ∧ t.len ≠ idle.len) ∧
    (∃ t, step (landed idle [1, 2]) = .next t ∧ t.acc ≠ (landed idle [1, 2]).acc) ∧
    (∃ t, step (busy.grant .reset) = .next t ∧ t.acc ≠ busy.acc ∧ t.src ≠ busy.src ∧ t.len ≠ busy.len) := by
  refine ⟨fun op h => ?_, ⟨_, rfl, by decide⟩, ⟨_, rfl, by decide⟩, ⟨_, rfl, by decide⟩, ⟨_, rfl, by decide⟩⟩
  simp only [List.mem_cons, List.not_mem_nil, or_false] at h
  rcases h with rfl | rfl | rfl | rfl <;> exact ⟨_, rfl, by decide⟩

theorem witness_NopResult :
    (0x100#32).toNat % 256 = 0 ∧ 0x100#32 ≠ 0#32 ∧ idle.busy = false ∧ busy.busy = true := by decide

theorem witness_ClearResult : idle.busy = false ∧ idleErr.busy = false ∧ busy.busy = true := by decide

/-- RSVD at its least nonzero value; the greatest word in both orders; both signs of the accumulator. -/
theorem witness_Add2Result :
    (0x01000002#32).toNat % 256 = 2 ∧ 2 ^ 24 ≤ (0x01000002#32).toNat ∧ idle.busy = false ∧ idleErr.busy = false ∧
    idle.params.hostEndian = .little ∧ idleErr.params.hostEndian = .big ∧
    (0xFFFF : Nat) = (0xFF#8).toNat + 256 * (0xFF#8).toNat ∧ busy.busy = true := by decide

theorem witness_Add1Result :
    (0x00010003#32).toNat % 256 = 3 ∧ 2 ^ 16 ≤ (0x00010003#32).toNat ∧ idle.busy = false ∧ busy.busy = true := by
  decide

/-- The sum one above 2^32, LEN = 0 at the highest SRC, and the sum 2^32. -/
theorem witness_BufAcceptance :
    (0x104#32).toNat % 256 = 4 ∧ 0x104#32 ≠ 4#32 ∧
    busy.busy = true ∧ idle.busy = false ∧
    (at_ idle 0xFFFFFFFF 2).src.toNat + (at_ idle 0xFFFFFFFF 2).len.toNat > 2 ^ 32 ∧
    (at_ idle 0xFFFFFFFF 0).src.toNat + (at_ idle 0xFFFFFFFF 0).len.toNat ≤ 2 ^ 32 ∧
    (at_ idle 0xFFFFFFFF 0).len = 0#32 ∧
    (at_ idle 0xFFFFFFFF 1).src.toNat + (at_ idle 0xFFFFFFFF 1).len.toNat ≤ 2 ^ 32 ∧
    (at_ idle 0xFFFFFFFF 1).len ≠ 0#32 := by decide

/-- Each command gives a next state, idle and busy, and BUF in its three forms. -/
theorem witness_CommandFrame :
    (∃ t, exec .nop idle = .next t) ∧ (∃ t, exec .clear idle = .next t) ∧ (∃ t, exec (.add2 1 2) idle = .next t) ∧
    (∃ t, exec (.add1 1) idle = .next t) ∧ (∃ t, exec .buf idle = .next t) ∧ (∃ t, exec .buf busy = .next t) ∧
    (∃ t, exec .buf (at_ idle 0xFFFFFFFF 1) = .next t) ∧
    ((at_ idle 0xFFFFFFFF 1).busy = false ∧
      ¬ (at_ idle 0xFFFFFFFF 1).src.toNat + (at_ idle 0xFFFFFFFF 1).len.toNat > 2 ^ 32) :=
  ⟨⟨_, rfl⟩, ⟨_, rfl⟩, ⟨_, rfl⟩, ⟨_, rfl⟩, ⟨_, rfl⟩, ⟨_, rfl⟩, ⟨_, rfl⟩, by decide⟩

theorem witness_EngineReadTakesOrAborts_idle : idle.busy = false ∧ idleErr.busy = false := by decide

/-- The last byte of a range that ends at the top of memory, answered with a byte and with a bus error. -/
theorem witness_EngineReadTakesOrAborts :
    (let s : State := { (at_ idle 0xFFFFFFFF 1).startEngine with mem := [(0xFFFFFFFF, 0xAB)] }
     s.busy = true ∧ s.engBytes.length < s.engLen.toNat ∧
      s.memRead (s.engSrc + BitVec.ofNat 32 s.engBytes.length) = .byte 0xAB) ∧
    (let s : State := { (at_ idle 0xFFFFFFFF 1).startEngine with busErrs := [0xFFFFFFFF] }
     s.busy = true ∧ s.engBytes.length < s.engLen.toNat ∧
      s.memRead (s.engSrc + BitVec.ofNat 32 s.engBytes.length) = .busError) := by decide

/-- Nothing raced, and a race just below and just above the range. -/
theorem witness_EngineCommits :
    (landed idle [1, 2]).busy = true ∧ (landed idle [1, 2]).engBytes.length = (landed idle [1, 2]).engLen.toNat ∧
    (∀ i < (landed idle [1, 2]).engLen.toNat, ∀ c ∈ [(0x0FFF, some 7#8), (0x1002, none)],
      c.1 ≠ ((landed idle [1, 2]).engSrc + BitVec.ofNat 32 i).toNat) := by
  decide

/-- A host's STATUS write and an engine read during a BUF. -/
theorem witness_BufInFlightFreezesOperands :
    (∃ s t : State, step s = .next t ∧ s.busy = true ∧ t.busy = true ∧ s.hostWrites .status 2#32 ∧
      s.nextTurn = .host) ∧
    (∃ t : State, step busy = .next t ∧ busy.busy = true ∧ t.busy = true ∧ t.engBytes = busy.engBytes ++ [1]) :=
  ⟨⟨busy.offer (hostWR busy.params .status 2), _, rfl, rfl, rfl, ⟨rfl, rfl⟩, rfl⟩,
    ⟨nextOf (step busy), rfl, rfl, by decide, by decide⟩⟩

theorem witness_BufEndsWithinItsBytes : busy.Inv ∧ busy.busy = true ∧ busy.sched = [] :=
  ⟨inv_of_witness.2.2.1, rfl, rfl⟩

/-- A run to the end of a BUF of two bytes, and one that is still reading. -/
theorem witness_EngineReadsEachAddressOnceInOrder :
    busy.Inv ∧ busy.busy = true ∧ busy.engBytes = [] ∧ busy.sched = [] ∧ busy.host = [] ∧
    (∃ t, run 1 busy = .next t ∧ t.busy = true) ∧
    ∃ t, run 3 busy = .next t ∧ busy.err = false ∧ t.err = false ∧ t.busy = false :=
  ⟨inv_of_witness.2.2.1, rfl, rfl, rfl, rfl, ⟨nextOf (run 1 busy), rfl, by decide⟩,
    ⟨nextOf (run 3 busy), rfl, rfl, by decide, by decide⟩⟩

/-- The highest address of memory. -/
theorem witness_RacedReadGivesOldOrNew :
    (let s : State := { busy with mem := [(0xFFFFFFFF, 0xAB)] }
     s.busy = true ∧ s.mem.read (0xFFFFFFFF#32).toNat = some 0xAB ∧ s.raceLog = [] ∧
      s.inWindow 0xFFFFFFFF#32 = false ∧ s.busErrs.contains (0xFFFFFFFF#32).toNat = false) := by decide

/-- A commit with a raced byte, and a store to the first and to the last byte of the range after they are read. -/
theorem witness_RacedReadGivesOldOrNew_late :
    (let s : State := { landed idle [1, 2] with raceLog := [(0x1000, some 1), (0x1000, some 9)] }
     s.busy = true ∧ s.engBytes.length = s.engLen.toNat) ∧
    (let s := landed idle [1, 2]
     s.busy = true ∧ s.engBytes[0]? = some 1 ∧ s.engBytes[1]? = some 2 ∧ s.raceLog = [] ∧
      s.mem.read (s.engSrc + BitVec.ofNat 32 0).toNat = some 1 ∧ s.inWindow (s.engSrc + BitVec.ofNat 32 0) = false ∧
      s.mem.read (s.engSrc + BitVec.ofNat 32 1).toNat = some 2 ∧ s.inWindow (s.engSrc + BitVec.ofNat 32 1) = false) := by
  decide

/-- A state that holds two bytes at 0x1000 and is about to run the operations `ops`. -/
def ready (m : List Byte) (ops : List HostOp) : State :=
  { at_ idle 0x1000 (BitVec.ofNat 32 m.length) with mem := memAt m, host := ops }

theorem ready_holds (ops : List HostOp) : (ready [1, 2] ops).holdsRange 0x1000#32 [1, 2] := by
  intro i h
  rcases i with _ | _ | i
  · exact ⟨rfl, rfl, rfl⟩
  · exact ⟨rfl, rfl, rfl⟩
  · simp at h

theorem witness_ClearThenBufComputesChecksum :
    (let s := ready [1, 2] [hostCMD idle.params .clear, hostCMD idle.params .buf]
     s.busy = false ∧ s.sched = [] ∧ s.host = hostCMD s.params .clear :: hostCMD s.params .buf :: [] ∧
      [1#8, 2#8].length = s.len.toNat ∧ s.src.toNat + s.len.toNat ≤ 2 ^ 32 ∧ s.holdsRange s.src [1, 2]) :=
  ⟨rfl, rfl, rfl, rfl, by decide, ready_holds _⟩

/-- The empty range, at the highest SRC. -/
theorem witness_ClearThenBufComputesChecksum_empty :
    (let s : State := { at_ idle 0xFFFFFFFF 0 with host := [hostCMD idle.params .clear, hostCMD idle.params .buf] }
     s.busy = false ∧ s.sched = [] ∧ s.host = hostCMD s.params .clear :: hostCMD s.params .buf :: [] ∧
      ([] : List Byte).length = s.len.toNat ∧ s.src.toNat + s.len.toNat ≤ 2 ^ 32 ∧ s.holdsRange s.src []) :=
  ⟨rfl, rfl, rfl, rfl, by decide, by intro i h; simp at h⟩

/-- A BUF over two bytes with a store just outside the range and a refused SRC write between the engine's steps. -/
def mixed : State :=
  { busy with host := [.store 0x1002#32 7, hostWR busy.params .src 0], sched := [.host, .engine, .host, .engine] }

theorem witness_BufCommitsSumUnderAnyInterleaving : ∃ t u : State,
    mixed.Inv ∧ mixed.busy = true ∧ mixed.engBytes = [] ∧ mixed.raceLog = [] ∧
    [1#8, 2#8].length = mixed.engLen.toNat ∧ mixed.holdsRange mixed.engSrc [1, 2] ∧
    (∀ op ∈ mixed.host, op.sparesRange mixed.engSrc [1#8, 2#8].length) ∧ Turn.reset ∉ mixed.sched ∧
    run 4 mixed = .next t ∧ (∀ j ≤ 4, ∀ x, run j mixed = .next x → x.busy = true) ∧
    step t = .next u ∧ u.busy = false := by
  refine ⟨nextOf (run 4 mixed), nextOf (step (nextOf (run 4 mixed))), ?_, rfl, rfl, rfl, rfl, ready_holds [], ?_,
    by decide, rfl, ?_, rfl, by decide⟩
  · constructor <;> decide
  · intro op h
    simp only [mixed, List.mem_cons, List.not_mem_nil, or_false] at h
    rcases h with rfl | rfl
    · show ∀ i < 2, (0x1002#32 : Word) ≠ 0x1000#32 + BitVec.ofNat 32 i
      decide
    · have e : touched .w32 (Reg.addr busy.params .src) = [0x8014#32, 0x8015#32, 0x8016#32, 0x8017#32] := by decide
      intro y hy i hi
      have hy' : y ∈ [0x8014#32, 0x8015#32, 0x8016#32, 0x8017#32] := e ▸ hy
      have hi' : i < 2 := hi
      simp only [List.mem_cons, List.not_mem_nil, or_false] at hy'
      rcases hy' with rfl | rfl | rfl | rfl <;> interval_cases i <;> decide
  · intro j hj x hx
    have e : run j mixed = .next (nextOf (run j mixed)) := by rw [hx]; rfl
    rw [e] at hx
    cases hx
    have key : ∀ j ≤ 4, (nextOf (run j mixed)).busy = true := by decide
    exact key j hj

/-- Three bytes, so that both ADD2 and ADD1 are issued, and none. -/
theorem witness_InlineBytesComputeChecksum :
    (let s : State := { idleErr with host := csumwOps idleErr.params [1, 2, 3] }
     s.busy = false ∧ s.sched = [] ∧ s.host = csumwOps s.params [1, 2, 3]) ∧
    (let s : State := { idleErr with host := csumwOps idleErr.params [] }
     s.busy = false ∧ s.sched = [] ∧ s.host = csumwOps s.params []) := by decide

theorem witness_CsumPseudoInstructionReadsChecksum :
    (let s := ready [1, 2] (csumOps idle.params 0x1000 2)
     s.busy = false ∧ s.err = false ∧ s.sched = [] ∧ s.host = csumOps s.params 0x1000 2 ∧
      [1#8, 2#8].length = (2#32).toNat ∧ (0x1000#32).toNat + (2#32).toNat ≤ 2 ^ 32 ∧
      s.holdsRange 0x1000#32 [1, 2]) :=
  ⟨rfl, rfl, rfl, rfl, rfl, by decide, ready_holds _⟩

/-- A sum of exactly 2^31. -/
theorem witness_AddWrapsAndReportsOverflow : (accAdd 0x7FFFFFFF#32 1#16).2 = true := by decide

/-- Both sides of zero at their ends. -/
theorem witness_FoldStaysInBounds :
    (0x7FFFFFFF#32).toInt ≥ 0 ∧ (0x80000000#32).toInt < 0 ∧ (0xFFFFFFFF#32).toInt < 0 ∧ (0#32).toInt = 0 := by decide

theorem witness_FoldIsEndAroundCarry :
    (0 : Int) ≤ (0#32).toInt ∧ (0 : Nat) = (if (0#32 : Word) = 0#32 then 0 else ((0#32).toNat - 1) % 0xFFFF + 1) ∧
    (0 : Int) ≤ (0x7FFFFFFF#32).toInt ∧
    (0x7FFF : Nat) = (if (0x7FFFFFFF#32 : Word) = 0#32 then 0 else ((0x7FFFFFFF#32).toNat - 1) % 0xFFFF + 1) := by
  decide

theorem witness_NoOverflowUpTo65537Bytes : (List.replicate 65537 0xFF#8).length ≤ 65537 := by rw [List.length_replicate]

/-- E4's header. -/
theorem witness_ChecksumFieldSelfCheck :
    [0x08#8, 0x00#8].length % 2 = 0 ∧ [0x08#8, 0x00#8].length + 2 + [0x00#8, 0x01#8, 0x00#8, 0x01#8].length ≤ 65537 ∧
    wordOf .big 0xF7#8 0xFD#8 = checksum .big ([0x08, 0x00] ++ [0, 0] ++ [0x00, 0x01, 0x00, 0x01]) := by decide

theorem witness_ByteOrdersSwapChecksum : header.length % 2 = 0 ∧ header.length ≤ 65536 := by decide

theorem witness_SumSplitsAtEvenPositions : [1#8, 2#8].length % 2 = 0 := by decide

theorem witness_ConfigurationNeverChanges : ∃ t, step (idle.grant .reset) = .next t := ⟨_, rfl⟩

/-- A byte store, and a word write outside the window: each makes a byte read otherwise. -/
theorem witness_SystemMemoryChangedOnlyByHostStores :
    (∃ t, step (idle.offer (.store 0x1000 7)) = .next t ∧ Memory.read t.mem 0x1000 ≠ Memory.read idle.mem 0x1000) ∧
    (∃ t, step ((ready [1, 2] []).offer (.write .w32 0x1000 7)) = .next t ∧
      Memory.read t.mem 0x1000 ≠ Memory.read (ready [1, 2] []).mem 0x1000) :=
  ⟨⟨nextOf (step (idle.offer (.store 0x1000 7))), rfl, by decide⟩,
    ⟨nextOf (step ((ready [1, 2] []).offer (.write .w32 0x1000 7))), rfl, by decide⟩⟩

/-- The addresses just below and just above the window. -/
theorem witness_ByteStoreWritesOneByte :
    idle.inWindow 0x7FFF#32 = false ∧ idle.inWindow 0x8020#32 = false ∧ idle.inWindow 0x8000#32 = true := by decide

theorem witness_StepKeepsInvariant :
    (∃ t, busy.Inv ∧ step busy = .next t) ∧ (∃ t, idleErr.Inv ∧ step idleErr = .next t) :=
  ⟨⟨nextOf (step busy), inv_of_witness.2.2.1, rfl⟩, ⟨_, inv_of_witness.2.1, rfl⟩⟩

/-- Two idle states that differ in the engine's registers, at an ordinary step and at one that starts a BUF. -/
theorem witness_IdleEngineStateIsNeverRead :
    let junk : State → State := fun s => { s with engSrc := 9, engLen := 8, engBytes := [7], raceLog := [(1, none)] }
    let s := (at_ idle 0x1000 2).offer (hostCMD idle.params .buf)
    s.busy = false ∧ junk s ≠ s ∧
    (junk s = { s with
      engSrc := (junk s).engSrc
      engLen := (junk s).engLen
      engAcc0 := (junk s).engAcc0
      engTail0 := (junk s).engTail0
      engBytes := (junk s).engBytes
      raceLog := (junk s).raceLog }) ∧
    ∃ t, step s = .next t ∧ t.busy = true :=
  ⟨rfl, by decide, rfl, _, rfl, rfl⟩

end Sys2Proof.Tests
end

section
/-! PROOFS. A command word and its command determine each other (30_encoding.md R73, R76). -/

namespace Sys2Proof

/-- Words with different opcodes differ. -/
theorem cmdWord_ne_of_op {r b1 b0 op r' b1' b0' op' : Byte} (h : op ≠ op') :
    cmdWord r b1 b0 op ≠ cmdWord r' b1' b0' op' :=
  fun e => h (by simpa using congrArg opField e)

@[simp] theorem decode_encode (i : Instr) : decode (encode i) = some i := by
  have ne_nop {r b1 b0 op : Byte} (h : op ≠ 0x00#8) : cmdWord r b1 b0 op ≠ 0x00000000#32 :=
    cmdWord_ne_of_op (r' := 0x00#8) (b1' := 0x00#8) (b0' := 0x00#8) h
  have ne_clear {r b1 b0 op : Byte} (h : op ≠ 0x01#8) : cmdWord r b1 b0 op ≠ 0x00000001#32 :=
    cmdWord_ne_of_op (r' := 0x00#8) (b1' := 0x00#8) (b0' := 0x00#8) h
  cases i with
  | nop => rfl
  | clear => rfl
  | add2 b0 b1 => simp [decode, encode, ne_nop, ne_clear, add2_row]
  | add1 b0 => simp [decode, encode, ne_nop, ne_clear, add2_row, add1_row]
  | buf => rfl

theorem encode_of_decode {w : Word} {i : Instr} (h : decode w = some i) : encode i = w := by
  have fields := cmdWord_fields w
  unfold decode at h
  split at h
  · rename_i e; cases h; exact e.symm
  split at h
  · rename_i e; cases h; exact e.symm
  split at h
  · rename_i e; cases h
    rw [add2_row] at e
    rwa [e.1, e.2] at fields
  split at h
  · rename_i e; cases h
    rw [add1_row] at e
    rwa [e.1, e.2.1, e.2.2] at fields
  split at h
  · rename_i e; cases h; exact e.symm
  · cases h

end Sys2Proof
end

section
/-! PROOFS. The addends of the commands read as numbers, and when an addition overflows (40_checksum.md R102, R103). -/

namespace Sys2Proof.Machine

@[simp] theorem tailOf_toNat (b : Byte) : (tailOf b).toNat = b.toNat := by
  have := b.isLt
  simp only [tailOf, BitVec.truncate_eq_setWidth, BitVec.toNat_setWidth]
  omega

theorem accAdd_overflow_iff (acc : Word) (v : Half) :
    (accAdd acc v).2 = true ↔ 2 ^ 31 ≤ acc.toInt + v.toNat := by
  change decide (acc.toInt + v.toNat > 2 ^ 31 - 1) = true ↔ _
  rw [decide_eq_true_iff]
  omega

end Sys2Proof.Machine
end

section
/-! PROOFS. What a step is about to do to CSUM, as one value computed from the state. The conditions the flag rules
speak of (10_state.md R29 to R34) each hold for one of these values, so that no two of them hold together. -/

namespace Sys2Proof.Machine

/-- What the next step is to CSUM. A CMD write is `issue i` where CSUM is idle and decodes it, and `other` where it only
records an error. -/
inductive Event where
  | reset
  | commit
  | abort
  | issue (i : Instr)
  | write (r : Reg) (v : Word)
  | other

/-- What a host's write of a register is to CSUM. -/
def State.writeEvent (s : State) (r : Reg) (v : Word) : Event :=
  if r = .cmd then
    if s.busy then .other else (decode v).elim .other .issue
  else .write r v

/-- What a host's operation is to CSUM. -/
def State.hostEvent (s : State) : HostOp → Event
  | .write w a v =>
    match s.select w a with
    | .reg r => s.writeEvent r v
    | _ => .other
  | _ => .other

/-- What the engine's turn is to CSUM. -/
def State.engineEvent (s : State) : Event :=
  if s.busy = true ∧ s.engBytes.length = s.engLen.toNat then .commit
  else if s.busy = true ∧ s.engBytes.length < s.engLen.toNat ∧ s.memRead s.engineAddr = .busError then .abort
  else .other

/-- What the next step is to CSUM. -/
def State.event (s : State) : Event :=
  match s.nextTurn with
  | .reset => .reset
  | .engine => s.engineEvent
  | .host => s.host.head?.elim .other s.hostEvent

/-! ### The value at each agent's turn -/

section turns

variable {s : State}

theorem State.event_of_reset (hn : s.nextTurn = .reset) : s.event = .reset := by simp [State.event, hn]

theorem State.event_of_engine (hn : s.nextTurn = .engine) : s.event = s.engineEvent := by simp [State.event, hn]

theorem State.event_of_host (hn : s.nextTurn = .host) : s.event = s.host.head?.elim .other s.hostEvent := by
  simp [State.event, hn]

theorem State.event_of_hostWrites {r : Reg} {v : Word} (h : s.hostWrites r v) : s.event = s.writeEvent r v := by
  obtain ⟨hn, hh⟩ := h
  simp [State.event_of_host hn, hh, State.hostEvent, hostWR, State.select_addr]

/-- An operation that writes no register is nothing to CSUM. -/
theorem State.hostEvent_of_no_write {op : HostOp} (h : ∀ r v, op ≠ hostWR s.params r v) :
    s.hostEvent op = .other := by
  cases op with
  | write w a v =>
    cases hs : s.select w a with
    | reg r =>
      obtain ⟨rfl, rfl⟩ := State.select_reg hs
      exact absurd rfl (h r v)
    | refused => simp [State.hostEvent, hs]
    | elsewhere => simp [State.hostEvent, hs]
  | read w a => rfl
  | poll r mask v => rfl
  | store a b => rfl

end turns

/-! ### The conditions of the rules, each as a value -/

/-- What a value says of the state it was computed from. -/
def Event.Occurs (s : State) : Event → Prop
  | .reset => s.nextTurn = .reset
  | .commit => s.commits
  | .abort => s.aborts
  | .issue i => s.hostIssues i
  | .write r v => s.hostWrites r v ∧ r ≠ .cmd
  | .other => True

theorem State.writeEvent_occurs {s : State} {r : Reg} {v : Word} (h : s.hostWrites r v) :
    (s.writeEvent r v).Occurs s := by
  unfold State.writeEvent
  split
  · rename_i hr
    subst hr
    cases hb : s.busy with
    | true => trivial
    | false =>
      cases hd : decode v with
      | none => trivial
      | some i => exact ⟨hb, encode_of_decode hd ▸ h⟩
  · rename_i hr
    exact ⟨h, hr⟩

theorem State.engineEvent_occurs {s : State} (hn : s.nextTurn = .engine) : s.engineEvent.Occurs s := by
  unfold State.engineEvent
  split
  · rename_i h; exact ⟨hn, h⟩
  split
  · rename_i h; exact ⟨hn, h⟩
  · trivial

theorem State.event_occurs (s : State) : s.event.Occurs s := by
  cases hn : s.nextTurn with
  | reset => rw [State.event_of_reset hn]; exact hn
  | engine => rw [State.event_of_engine hn]; exact State.engineEvent_occurs hn
  | host =>
    by_cases hw : ∃ r v, s.hostWrites r v
    · obtain ⟨r, v, hw⟩ := hw
      rw [State.event_of_hostWrites hw]
      exact State.writeEvent_occurs hw
    · have other : s.event = .other := by
        rw [State.event_of_host hn]
        cases hh : s.host.head? with
        | none => rfl
        | some op => exact State.hostEvent_of_no_write fun r v e => hw ⟨r, v, hn, e ▸ hh⟩
      rw [other]
      trivial

section conditions

variable {s : State}

theorem State.nextTurn_reset_iff : s.nextTurn = .reset ↔ s.event = .reset :=
  ⟨State.event_of_reset, fun h => by have := s.event_occurs; rwa [h] at this⟩

theorem State.commits_iff : s.commits ↔ s.event = .commit := by
  constructor
  · rintro ⟨hn, h⟩
    rw [State.event_of_engine hn, State.engineEvent, if_pos h]
  · intro h
    have := s.event_occurs
    rwa [h] at this

theorem State.aborts_iff : s.aborts ↔ s.event = .abort := by
  constructor
  · rintro ⟨hn, h⟩
    rw [State.event_of_engine hn, State.engineEvent, if_neg (fun c => h.2.1.ne c.2), if_pos h]
  · intro h
    have := s.event_occurs
    rwa [h] at this

theorem State.hostIssues_iff {i : Instr} : s.hostIssues i ↔ s.event = .issue i := by
  constructor
  · rintro ⟨hb, h⟩
    simp [State.event_of_hostWrites h, State.writeEvent, hb]
  · intro h
    have := s.event_occurs
    rwa [h] at this

theorem State.hostWrites_iff {r : Reg} {v : Word} (hr : r ≠ .cmd) : s.hostWrites r v ↔ s.event = .write r v := by
  constructor
  · intro h
    simp [State.event_of_hostWrites h, State.writeEvent, hr]
  · intro h
    have := s.event_occurs
    rw [h] at this
    exact this.1

theorem State.hostWrites_status_iff {v : Word} : s.hostWrites .status v ↔ s.event = .write .status v :=
  State.hostWrites_iff (by decide)

end conditions

/-! ### What the step does -/

/-- The state in which CSUM takes a host's write: the turn and the operation are taken and the port has answered. -/
def State.served (s : State) : State := { s.popTurn with host := s.host.tail }.respond .done

section served

variable (s : State)

@[simp] theorem State.served_acc : s.served.acc = s.acc := rfl
@[simp] theorem State.served_src : s.served.src = s.src := rfl
@[simp] theorem State.served_len : s.served.len = s.len := rfl
@[simp] theorem State.served_busy : s.served.busy = s.busy := rfl
@[simp] theorem State.served_ovf : s.served.ovf = s.ovf := rfl
@[simp] theorem State.served_tail : s.served.tail = s.tail := rfl
@[simp] theorem State.served_tailv : s.served.tailv = s.tailv := rfl
@[simp] theorem State.served_params : s.served.params = s.params := rfl
@[simp] theorem State.served_rangeBad : s.served.rangeBad = s.rangeBad := rfl

end served

/-- Two states with the same registers and the same flags but for the error record. -/
structure State.SameRegisters (s t : State) : Prop where
  acc : t.acc = s.acc
  src : t.src = s.src
  len : t.len = s.len
  busy : t.busy = s.busy
  ovf : t.ovf = s.ovf
  tail : t.tail = s.tail
  tailv : t.tailv = s.tailv

/-- What a step does, read off what it is to CSUM. -/
def Event.Effect (s t : State) : Event → Prop
  | .reset => t = s.popTurn.resetStep
  | .commit => t = s.popTurn.commit
  | .abort => t = (s.popTurn.noteRead s.engineAddr).abort
  | .issue i => s.busy = false ∧ exec i s.served = .next t
  | .write r v => r ≠ .cmd ∧ writeReg r v s.served = .next t
  | .other => s.SameRegisters t

theorem State.engineEvent_effect (s : State) : s.engineEvent.Effect s (engineStep s.popTurn) := by
  have quiet {t : State} (other : s.engineEvent = .other) (same : s.SameRegisters t) : s.engineEvent.Effect s t :=
    other ▸ same
  rcases engineStep_cases s.popTurn with ⟨e, h⟩ | ⟨b, e, -, hl, hm⟩ | ⟨e, hb, hl, hm⟩ | ⟨e, h⟩
  · rw [e]
    refine quiet ?_ ⟨rfl, rfl, rfl, rfl, rfl, rfl, rfl⟩
    rcases h with hb | hl
    · have hb : s.busy = false := hb
      simp [State.engineEvent, hb]
    · have hl : s.engLen.toNat < s.engBytes.length := hl
      simp [State.engineEvent, hl.ne', hl.not_gt]
  · rw [e]
    refine quiet ?_ ⟨rfl, rfl, rfl, rfl, rfl, rfl, rfl⟩
    have hl : s.engBytes.length < s.engLen.toNat := hl
    have hm : s.memRead s.engineAddr = .byte b := hm
    simp [State.engineEvent, hl.ne, hm]
  · have abort : s.engineEvent = .abort := (if_neg fun c => hl.ne c.2).trans (if_pos ⟨hb, hl, hm⟩)
    rw [abort]
    exact e
  · have commit : s.engineEvent = .commit := if_pos h
    rw [commit]
    exact e

theorem State.writeEvent_effect {s t : State} {r : Reg} {v : Word} (h : writeReg r v s.served = .next t) :
    (s.writeEvent r v).Effect s t := by
  unfold State.writeEvent
  split
  · rename_i hr
    subst hr
    cases hb : s.busy with
    | true =>
      have ht : issue v s.served = .next t := h
      rw [issue_busy (by simpa using hb)] at ht
      cases ht
      exact ⟨rfl, rfl, rfl, rfl, rfl, rfl, rfl⟩
    | false =>
      have ht : issue v s.served = .next t := h
      rw [issue_idle (by simpa using hb)] at ht
      cases hd : decode v with
      | none =>
        rw [hd] at ht
        cases ht
        exact ⟨rfl, rfl, rfl, rfl, rfl, rfl, rfl⟩
      | some i =>
        rw [hd] at ht
        exact ⟨hb, ht⟩
  · rename_i hr
    exact ⟨hr, h⟩

/-- All a step can do, by what it is to CSUM. -/
theorem step_effect {s t : State} (h : step s = .next t) : s.event.Effect s t := by
  rcases step_cases h with ⟨hn, rfl⟩ | ⟨hn, rfl⟩ | ⟨hn, hh, rfl⟩ | ⟨op, rest, hn, hh, hs⟩
  · rw [State.event_of_reset hn]
    rfl
  · rw [State.event_of_engine hn]
    exact s.engineEvent_effect
  · have other : s.event = .other := by simp [State.event_of_host hn, hh]
    rw [other]
    exact ⟨rfl, rfl, rfl, rfl, rfl, rfl, rfl⟩
  · have he : s.event = s.hostEvent op := by simp [State.event_of_host hn, hh]
    rcases hostStep_cases hs with ⟨r, v, rfl, hw⟩ | ⟨hno, ht⟩
    · have served : s.served = State.respond .done { s.popTurn with host := rest } := by simp [State.served, hh]
      rw [State.event_of_hostWrites ⟨hn, by rw [hh]; rfl⟩]
      exact State.writeEvent_effect (served ▸ hw)
    · rw [he, State.hostEvent_of_no_write (s := s) hno, ht]
      exact ⟨rfl, rfl, rfl, rfl, rfl, rfl, rfl⟩

/-- All a write of a register but CMD can do to the flags. -/
theorem writeReg_flags {r : Reg} {v : Word} {s t : State} (hr : r ≠ .cmd) (h : writeReg r v s = .next t) :
    (r = .status ∧ t = s.writeStatus v) ∨
    (r ≠ .status ∧ t.busy = s.busy ∧ t.ovf = s.ovf ∧ t.tail = s.tail ∧ t.tailv = s.tailv) := by
  rcases writeReg_cases h with
    ⟨rfl | rfl | rfl, rfl⟩ | ⟨rfl, rfl⟩ | ⟨rfl | rfl | rfl | rfl, -, rfl⟩ |
    ⟨-, ⟨rfl, rfl⟩ | ⟨rfl, rfl⟩ | ⟨rfl, rfl⟩⟩ | ⟨-, rfl, -⟩ | ⟨-, rfl, -⟩ <;> simp at hr ⊢

theorem writeReg_busy {r : Reg} {v : Word} {s t : State} (hr : r ≠ .cmd) (h : writeReg r v s = .next t) :
    t.busy = s.busy := by
  rcases writeReg_flags hr h with ⟨-, rfl⟩ | ⟨-, busy, -⟩
  · rfl
  · exact busy

theorem writeReg_tail {r : Reg} {v : Word} {s t : State} (hr : r ≠ .cmd) (h : writeReg r v s = .next t) :
    t.tail = s.tail := by
  rcases writeReg_flags hr h with ⟨-, rfl⟩ | ⟨-, -, -, tail, -⟩
  · rfl
  · exact tail

theorem writeReg_ovf_iff {r : Reg} {v : Word} {s t : State} (hr : r ≠ .cmd) (h : writeReg r v s = .next t) :
    t.ovf = true ↔ s.ovf = true ∧ ¬ (r = .status ∧ v.getLsbD 1 = true) := by
  rcases writeReg_flags hr h with ⟨rfl, rfl⟩ | ⟨hs, -, ovf, -⟩
  · simp [clearsOvf]
  · simp [ovf, hs]

/-! ### The flags after a command at an idle CSUM -/

section exec

variable {i : Instr} {s t : State} (hb : s.busy = false) (h : exec i s = .next t)
include hb h

theorem exec_busy_iff :
    t.busy = true ↔ i = .buf ∧ 0 < s.len.toNat ∧ s.src.toNat + s.len.toNat ≤ 2 ^ 32 := by
  have legal := s.rangeBad_iff
  rcases exec_idle_cases hb h with
    ⟨rfl, rfl⟩ | ⟨rfl, rfl⟩ | ⟨b0, b1, rfl, rfl⟩ | ⟨b0, rfl, rfl⟩ | ⟨rfl, bad, rfl⟩ | ⟨rfl, -, zero, rfl⟩ |
    ⟨rfl, ok, pos, rfl⟩
  · simp [hb]
  · simp [hb]
  · simp [hb]
  · simp [hb]
  · have := legal.mp bad
    simp only [State.raise_busy, hb, Bool.false_eq_true, true_and, false_iff]
    omega
  · simp [hb, zero]
  · have := mt legal.mpr (by simp [ok])
    have : s.len.toNat ≠ 0 := fun e => pos (BitVec.eq_of_toNat_eq e)
    simp only [State.startEngine_busy, true_and, true_iff]
    omega

theorem exec_ovf_iff :
    t.ovf = true ↔
      (∃ b0 b1, i = .add2 b0 b1 ∧ 2 ^ 31 ≤ s.acc.toInt + (wordOf s.params.hostEndian b0 b1).toNat) ∨
      (∃ b0, i = .add1 b0 ∧ 2 ^ 31 ≤ s.acc.toInt + b0.toNat) ∨ (s.ovf = true ∧ i ≠ .clear) := by
  rcases exec_idle_cases hb h with
    ⟨rfl, rfl⟩ | ⟨rfl, rfl⟩ | ⟨b0, b1, rfl, rfl⟩ | ⟨b0, rfl, rfl⟩ | ⟨rfl, -, rfl⟩ | ⟨rfl, -, -, rfl⟩ |
    ⟨rfl, -, -, rfl⟩ <;> simp [accAdd_overflow_iff, or_comm]

theorem exec_tail_iff : t.tail = true ↔ (∃ b0, i = .add1 b0) ∨ (s.tail = true ∧ i ≠ .clear) := by
  rcases exec_idle_cases hb h with
    ⟨rfl, rfl⟩ | ⟨rfl, rfl⟩ | ⟨b0, b1, rfl, rfl⟩ | ⟨b0, rfl, rfl⟩ | ⟨rfl, -, rfl⟩ | ⟨rfl, -, -, rfl⟩ |
    ⟨rfl, -, -, rfl⟩ <;> simp

end exec

/-! ### The flags after a commit -/

theorem State.commit_ovf_iff (s : State) : s.commit.ovf = true ↔
    (sumBytes s.params.hostEndian s.engAcc0 s.settledBytes).2 = true ∨ s.ovf = true := by
  rw [State.commit_ovf, Bool.or_eq_true, or_comm]

theorem State.commit_tailv_iff (s : State) : s.commit.tailv = true ↔ s.engTail0 = true ∨ s.tailv = true := by
  rw [State.commit_tailv, Bool.or_eq_true, or_comm]

theorem State.commit_tail_iff (s : State) : s.commit.tail = true ↔ s.engLen.toNat % 2 = 1 ∨ s.tail = true := by
  rw [State.commit_tail, Bool.or_eq_true, BitVec.getLsbD, Nat.testBit_zero, decide_eq_true_iff, or_comm]

end Sys2Proof.Machine
end

section
/-! PROOFS. The statements about STATUS and the reset values (10_state.md R29 to R31, R34, R42). -/

namespace Sys2Proof.Machine

theorem State.writeStatus_eq (v : Word) (s : State) : s.writeStatus v = { s with
    ovf := if v.getLsbD 1 then false else s.ovf
    tailv := if v.getLsbD 3 then false else s.tailv
    err := if v.getLsbD 4 then false else s.err
    errcode := if v.getLsbD 4 then 0#4 else s.errcode } := by
  have clear (b c : Bool) : (b && !c) = if c then false else b := by cases c <;> simp
  simp only [State.writeStatus, clearsOvf, clearsTailv, clearsErr, clear]
  rfl

theorem step_of_commits {s : State} (h : s.commits) : step s = .next s.popTurn.commit := by
  obtain ⟨hn, hb, hl⟩ := h
  rw [step_of_engine hn]
  simp [engineStep, hb, hl]

/-- Settles O13: the write's step is `writeStatus`, and a commit joins its own flags to OVF and TAILV. -/
theorem statusWriteOneToClear : Obligations.StatusWriteOneToClear := by
  unfold Obligations.StatusWriteOneToClear
  constructor
  · intro s v
    refine ⟨s.responses ++ [.done], ?_⟩
    rw [step_offer, hostStep_write_reg]
    exact congrArg _ (State.writeStatus_eq v (s.respond .done))
  · intro s t hc h
    rw [step_of_commits hc] at h
    cases h
    exact ⟨fun ho => (State.commit_ovf_iff _).mpr (.inl ho), fun ht => (State.commit_tailv_iff _).mpr (.inl ht)⟩

/-- Settles O21, by what the step is to CSUM: only an accepted BUF sets BUSY, and only the three named events clear
it. -/
theorem busyExactlyWhileBufInFlight : Obligations.BusyExactlyWhileBufInFlight := by
  unfold Obligations.BusyExactlyWhileBufInFlight
  intro s t h
  have effect := step_effect h
  rw [State.hostIssues_iff, State.commits_iff, State.aborts_iff, State.nextTurn_reset_iff]
  generalize s.event = e at effect ⊢
  cases e with
  | reset => cases effect; simp
  | commit => cases effect; simp
  | abort => cases effect; simp
  | issue i =>
    obtain ⟨hb, he⟩ := effect
    have busy := exec_busy_iff (s := s.served) hb he
    simpa [hb] using busy
  | write r v =>
    obtain ⟨hr, hw⟩ := effect
    simp +contextual [writeReg_busy hr hw]
  | other => simp +contextual [effect.busy]

/-- Settles O22, by what the step is to CSUM. -/
theorem ovfSetAndClearedOnlyAsStated : Obligations.OvfSetAndClearedOnlyAsStated := by
  unfold Obligations.OvfSetAndClearedOnlyAsStated
  intro s t h
  have effect := step_effect h
  simp only [State.hostIssues_iff, State.hostWrites_status_iff, State.commits_iff, State.nextTurn_reset_iff]
  generalize s.event = e at effect ⊢
  cases e with
  | reset => cases effect; simp
  | commit => cases effect; simp [State.commit_ovf_iff, -State.commit_ovf]
  | abort => cases effect; simp
  | issue i =>
    obtain ⟨hb, he⟩ := effect
    have ovf := exec_ovf_iff (s := s.served) hb he
    simpa using ovf
  | write r v =>
    obtain ⟨hr, hw⟩ := effect
    have ovf := writeReg_ovf_iff hr hw
    simpa using ovf
  | other => simp [effect.ovf]

/-- Settles O23, by what the step is to CSUM. -/
theorem tailSetAndClearedOnlyAsStated : Obligations.TailSetAndClearedOnlyAsStated := by
  unfold Obligations.TailSetAndClearedOnlyAsStated
  intro s t h
  have effect := step_effect h
  simp only [State.hostIssues_iff, State.commits_iff, State.nextTurn_reset_iff]
  generalize s.event = e at effect ⊢
  cases e with
  | reset => cases effect; simp
  | commit => cases effect; simp [State.commit_tail_iff, -State.commit_tail]
  | abort => cases effect; simp
  | issue i =>
    obtain ⟨hb, he⟩ := effect
    have tail := exec_tail_iff (s := s.served) hb he
    simpa using tail
  | write r v =>
    obtain ⟨hr, hw⟩ := effect
    simp [writeReg_tail hr hw]
  | other => simp [effect.tail]

/-- ID by byte order (R22). -/
theorem idWord_eq (p : Params) :
    idWord p = if p.hostEndian = .little then 0x43530100#32 else 0x43530101#32 := by
  unfold idWord
  cases p.hostEndian <;> decide

/-- Settles O52: no value but ID's depends on the configuration, so the others are read at `State.reset`. -/
theorem resetStateReads : Obligations.ResetStateReads := by
  unfold Obligations.ResetStateReads
  intro p
  have status : (State.resetWith p).readReg .status = State.reset.readReg .status := rfl
  have result : (State.resetWith p).readReg .result = State.reset.readReg .result := rfl
  refine ⟨⟨rfl, rfl, rfl, rfl, rfl, rfl, rfl, rfl, rfl⟩, ?_, ?_, idWord_eq p, rfl⟩
  · rw [status]; decide
  · rw [result]; decide

end Sys2Proof.Machine
end

section
/-! PROOFS. The BUSY interlock on the operand registers, and the accesses that select no register (20_memory.md R51,
R53). -/

namespace Sys2Proof.Machine

/-! ### The interlock -/

/-- While BUSY = 1 a write of CMD or of an operand register only raises BUSY (R53). -/
theorem writeReg_operand_of_busy {s : State} {r : Reg} {v : Word} (hb : s.busy = true)
    (hr : r ∈ [Reg.cmd, .acc, .src, .len]) : writeReg r v s = .next (s.raise .busy) := by
  simp only [List.mem_cons, List.not_mem_nil, or_false] at hr
  rcases hr with rfl | rfl | rfl | rfl
  · exact issue_busy hb
  all_goals exact congrArg _ (State.unlessBusy_busy hb)

/-- A write of a register without a write rule changes nothing (R22, R25, R35). -/
theorem writeReg_readOnly {s : State} {r : Reg} {v : Word} (hr : r ∈ [Reg.id, .result, .rsvd]) :
    writeReg r v s = .next s := by
  simp only [List.mem_cons, List.not_mem_nil, or_false] at hr
  rcases hr with rfl | rfl | rfl <;> rfl

/-- A host's register write, offered, is that register's rule after the port's answer. -/
theorem step_offer_hostWR (s : State) (r : Reg) (v : Word) :
    step (s.offer (hostWR s.params r v)) = writeReg r v (s.respond .done) := by
  rw [step_offer, hostStep_write_reg]

/-- A host's register read, offered, is answered with the register's number. -/
theorem step_offer_hostRD (s : State) (r : Reg) :
    step (s.offer (hostRD s.params r)) = .next (s.respond (.value (s.readReg r))) := by
  rw [step_offer, hostStep_read_reg]

/-- A read of RESULT is the 16-bit result as a number. -/
theorem State.readReg_result_toNat (s : State) : (s.readReg .result).toNat = (result s.acc).toNat :=
  BitVec.toNat_setWidth_of_le (by decide)

/-- Settles O10, by the write rule of each group of registers; a read has the same rule busy or idle. -/
theorem busyLocksOperandRegisters : Obligations.BusyLocksOperandRegisters := by
  unfold Obligations.BusyLocksOperandRegisters
  intro s v hb
  refine ⟨fun r hr => ⟨s.responses ++ [.done], ?_⟩, fun r hr => ⟨s.responses ++ [.done], ?_⟩,
    ⟨s.responses ++ [.done], ?_⟩, step_offer_hostRD s, rfl, s.readReg_result_toNat⟩
  · rw [step_offer_hostWR, writeReg_operand_of_busy (s := s.respond .done) hb hr]
    rfl
  · rw [step_offer_hostWR, writeReg_readOnly hr]
    rfl
  · rw [step_offer_hostWR]
    rfl

/-! ### Which accesses select a register -/

/-- The register offsets are the multiples of 4 in the window (R21). -/
theorem Reg.exists_offset_iff (o : Word) : (∃ r : Reg, o = r.offset) ↔ ∃ k < 8, o = BitVec.ofNat 32 (4 * k) := by
  constructor
  · rintro ⟨r, rfl⟩
    refine ⟨r.offset.toNat / 4, ?_⟩
    cases r <;> decide
  · rintro ⟨k, hk, rfl⟩
    interval_cases k
    exacts [⟨.id, rfl⟩, ⟨.cmd, rfl⟩, ⟨.status, rfl⟩, ⟨.acc, rfl⟩, ⟨.result, rfl⟩,
      ⟨.src, rfl⟩, ⟨.len, rfl⟩, ⟨.rsvd, rfl⟩]

theorem State.exists_select_reg_iff (s : State) (w : Width) (a : Word) :
    (∃ r, s.select w a = .reg r) ↔ w = .w32 ∧ ∃ r : Reg, a = r.addr s.params := by
  constructor
  · rintro ⟨r, h⟩
    obtain ⟨hw, ha⟩ := State.select_reg h
    exact ⟨hw, r, ha⟩
  · rintro ⟨rfl, r, rfl⟩
    exact ⟨r, s.select_addr r⟩

/-- The register addresses are CSUM_BASE + 4k (R51). -/
theorem Reg.exists_addr_iff (p : Params) (a : Word) :
    (∃ r : Reg, a = r.addr p) ↔ ∃ k < 8, a = Params.base p + BitVec.ofNat 32 (4 * k) := by
  simpa only [Reg.addr, sub_eq_iff_eq_add'] using Reg.exists_offset_iff (a - Params.base p)

/-- A register's address is a multiple of 4. -/
theorem Reg.addr_toNat_mod (p : Params) (r : Reg) : (r.addr p).toNat % 4 = 0 := by
  have hr : r.offset.toNat % 4 = 0 := by cases r <;> rfl
  have hb := Params.base_toNat p
  simp only [Reg.addr, BitVec.toNat_add]
  omega

/-! ### The other accesses -/

/-- An access touches the byte at its address. -/
theorem self_mem_touched (w : Width) (a : Word) : a ∈ touched w a :=
  List.mem_map.mpr ⟨0, by cases w <;> decide, by simp⟩

/-- An access that touches the window and selects no register is refused (R51). -/
theorem State.select_refused {s : State} {w : Width} {a : Word} (touches : ∃ y ∈ touched w a, s.inWindow y = true)
    (noReg : ¬ ∃ r, s.select w a = .reg r) : s.select w a = .refused := by
  cases h : s.select w a with
  | reg r => exact absurd ⟨r, h⟩ noReg
  | refused => rfl
  | elsewhere =>
    rw [State.select, if_pos (List.any_eq_true.mpr touches)] at h
    split at h
    · split at h <;> cases h
    · cases h

/-- A refused read is answered with a bus error and changes nothing. -/
theorem hostStep_read_refused {s : State} {w : Width} {a : Word} (h : s.select w a = .refused) :
    hostStep (.read w a) s = .next (s.respond .busError) := by
  simp only [hostStep, h]

/-- A refused write is answered with a bus error; the bytes it touches outside the window are the platform's
(log 11). -/
theorem hostStep_write_refused {s : State} {w : Width} {a : Word} (v : Word) (h : s.select w a = .refused) :
    hostStep (.write w a v) s = .next ((s.forgetOutside w a).respond .busError) := by
  simp only [hostStep, h]

/-- Settles O14: a register's address is a multiple of 4, so the accesses of the second part select none. -/
theorem otherWindowAccessesRefused : Obligations.OtherWindowAccessesRefused := by
  unfold Obligations.OtherWindowAccessesRefused
  intro s w a
  refine ⟨by rw [State.exists_select_reg_iff, Reg.exists_addr_iff], fun low high other => ?_⟩
  have refused : s.select w a = .refused := by
    refine State.select_refused ⟨a, self_mem_touched w a, (s.inWindow_iff a).mpr ⟨low, high⟩⟩ fun hreg => ?_
    obtain ⟨hw, r, rfl⟩ := (s.exists_select_reg_iff w a).mp hreg
    exact other.elim (absurd hw) (absurd (Reg.addr_toNat_mod s.params r))
  refine ⟨?_, fun v => ⟨(s.forgetOutside w a).respond .busError, ?_, ?_⟩⟩
  · rw [step_offer, hostStep_read_refused refused]
    rfl
  · rw [step_offer, hostStep_write_refused v refused]
  · exact congrArg (State.respond .busError) (s.forgetOutside_eq w a)

end Sys2Proof.Machine
end

section
/-! PROOFS. The opcode map and the decoder say the same of every word, and by number (30_encoding.md R73, R74, R76). -/

namespace Sys2Proof

/-! ### The opcode map -/

/-- The row of a command in the opcode map (R73). -/
def Instr.row : Instr → CmdRow
  | .nop => ⟨"NOP", 0x00000000#32, 0xFFFFFFFF#32⟩
  | .clear => ⟨"CLEAR", 0x00000001#32, 0xFFFFFFFF#32⟩
  | .add2 _ _ => ⟨"ADD2", 0x00000002#32, 0xFF0000FF#32⟩
  | .add1 _ => ⟨"ADD1", 0x00000003#32, 0xFFFF00FF#32⟩
  | .buf => ⟨"BUF", 0x00000004#32, 0xFFFFFFFF#32⟩

theorem decode_eq_some_iff {w : Word} {i : Instr} : decode w = some i ↔ w = encode i :=
  ⟨fun h => (encode_of_decode h).symm, fun h => h ▸ decode_encode i⟩

/-- A row that masks nothing accepts the one word of its pattern. -/
theorem decode_eq_some_iff_full_mask {w : Word} {i : Instr} :
    decode w = some i ↔ w &&& 0xFFFFFFFF#32 = encode i := by
  have full : w &&& 0xFFFFFFFF#32 = w := BitVec.and_allOnes
  rw [full, decode_eq_some_iff]

theorem exists_decode_add2_iff {w : Word} :
    (∃ b0 b1, decode w = some (.add2 b0 b1)) ↔ w &&& 0xFF0000FF#32 = 0x00000002#32 := by
  simp only [decode_eq_some_iff, add2_row]
  constructor
  · rintro ⟨b0, b1, rfl⟩
    exact ⟨opField_cmdWord .., rsvdField_cmdWord ..⟩
  · rintro ⟨op, rsvd⟩
    refine ⟨b0Field w, b1Field w, ?_⟩
    rw [encode, ← op, ← rsvd, cmdWord_fields]

theorem exists_decode_add1_iff {w : Word} :
    (∃ b0, decode w = some (.add1 b0)) ↔ w &&& 0xFFFF00FF#32 = 0x00000003#32 := by
  simp only [decode_eq_some_iff, add1_row]
  constructor
  · rintro ⟨b0, rfl⟩
    exact ⟨opField_cmdWord .., b1Field_cmdWord .., rsvdField_cmdWord ..⟩
  · rintro ⟨op, b1, rsvd⟩
    refine ⟨b0Field w, ?_⟩
    conv_lhs => rw [← cmdWord_fields w, op, b1, rsvd]
    rfl

theorem CmdRow.accepts_iff {r : CmdRow} {w : Word} : r.accepts w = true ↔ w &&& r.mask = r.pattern := beq_iff_eq

/-- A row accepts exactly the words that decode to its command. -/
theorem CmdRow.accepts_iff_decode {r : CmdRow} (hr : r ∈ cmdRows) {w : Word} :
    r.accepts w = true ↔ ∃ i, decode w = some i ∧ i.row = r := by
  rw [accepts_iff]
  constructor
  · intro h
    simp only [cmdRows, List.mem_cons, List.not_mem_nil, or_false] at hr
    rcases hr with rfl | rfl | rfl | rfl | rfl
    · exact ⟨.nop, decode_eq_some_iff_full_mask.mpr h, rfl⟩
    · exact ⟨.clear, decode_eq_some_iff_full_mask.mpr h, rfl⟩
    · obtain ⟨b0, b1, hd⟩ := exists_decode_add2_iff.mpr h
      exact ⟨.add2 b0 b1, hd, rfl⟩
    · obtain ⟨b0, hd⟩ := exists_decode_add1_iff.mpr h
      exact ⟨.add1 b0, hd, rfl⟩
    · exact ⟨.buf, decode_eq_some_iff_full_mask.mpr h, rfl⟩
  · rintro ⟨i, hd, rfl⟩
    cases i with
    | nop => exact decode_eq_some_iff_full_mask.mp hd
    | clear => exact decode_eq_some_iff_full_mask.mp hd
    | add2 b0 b1 => exact exists_decode_add2_iff.mp ⟨b0, b1, hd⟩
    | add1 b0 => exact exists_decode_add1_iff.mp ⟨b0, hd⟩
    | buf => exact decode_eq_some_iff_full_mask.mp hd

/-- The rows that accept a word: its command's row alone, or none where it decodes to no command. -/
theorem filter_accepts_cmdRows (w : Word) :
    cmdRows.filter (fun r => r.accepts w) = ((decode w).map Instr.row).toList := by
  have accepts : ∀ r ∈ cmdRows, r.accepts w = decide ((decode w).map Instr.row = some r) := fun r hr => by
    rw [Bool.eq_iff_iff, CmdRow.accepts_iff_decode hr, decide_eq_true_iff, Option.map_eq_some_iff]
  rw [List.filter_congr accepts]
  cases decode w with
  | none => rfl
  | some i => cases i <;> rfl

/-- Settles O3, by `decode_eq_some_iff` for the words of one command and `filter_accepts_cmdRows` for the rows. -/
theorem opcodeMapSelectsCommand : Obligations.OpcodeMapSelectsCommand := by
  unfold Obligations.OpcodeMapSelectsCommand
  refine ⟨fun w => ⟨decode_eq_some_iff_full_mask, decode_eq_some_iff_full_mask, exists_decode_add2_iff,
    exists_decode_add1_iff, decode_eq_some_iff_full_mask, fun legal => ?_, fun illegal => ?_⟩,
    rfl, rfl, rfl, fun _ _ => rfl, fun _ => rfl⟩
  · obtain ⟨i, hd⟩ := Option.ne_none_iff_exists'.mp legal
    exact ⟨i.row, by rw [filter_accepts_cmdRows, hd]; rfl⟩
  · rw [filter_accepts_cmdRows, illegal]; rfl

/-! ### The decoder by number -/

theorem b0Field_eq_ofNat (w : Word) : b0Field w = BitVec.ofNat 8 (w.toNat / 2 ^ 8 % 256) :=
  BitVec.eq_of_toNat_eq (by rw [b0Field_toNat, BitVec.toNat_ofNat, Nat.mod_mod])

theorem b1Field_eq_ofNat (w : Word) : b1Field w = BitVec.ofNat 8 (w.toNat / 2 ^ 16 % 256) :=
  BitVec.eq_of_toNat_eq (by rw [b1Field_toNat, BitVec.toNat_ofNat, Nat.mod_mod])

/-- Settles O4: each test of the decoder is a condition on the word's number, and so is each operand. -/
theorem decoderIsTotalByNumber : Obligations.DecoderIsTotalByNumber := by
  unfold Obligations.DecoderIsTotalByNumber
  intro w
  have nop : w = 0#32 ↔ w.toNat = 0 := BitVec.toNat_inj.symm
  have clear : w = 1#32 ↔ w.toNat = 1 := BitVec.toNat_inj.symm
  have buf : w = 4#32 ↔ w.toNat = 4 := BitVec.toNat_inj.symm
  simp only [decode, nop, clear, add2_row_toNat, add1_row_toNat, buf, b0Field_eq_ofNat, b1Field_eq_ofNat]

/-! ### The illegal words -/

/-- The illegal words (R74): no test of the decoder by number succeeds. -/
theorem decode_eq_none_iff (w : Word) : decode w = none ↔
    5 ≤ w.toNat % 256 ∨
    (w.toNat % 256 = 0 ∨ w.toNat % 256 = 1 ∨ w.toNat % 256 = 4) ∧ w.toNat / 2 ^ 8 ≠ 0 ∨
    w.toNat % 256 = 2 ∧ w.toNat / 2 ^ 24 ≠ 0 ∨
    w.toNat % 256 = 3 ∧ w.toNat / 2 ^ 16 ≠ 0 := by
  rw [decoderIsTotalByNumber w]
  simp only [ite_eq_iff, reduceCtorEq, and_false, false_or, and_true]
  omega

/-- Settles O5: the issue of an illegal word to an idle CSUM only raises ILLEGAL. -/
theorem illegalWordOnlyRecordsError : Obligations.IllegalWordOnlyRecordsError := by
  unfold Obligations.IllegalWordOnlyRecordsError
  refine ⟨decode_eq_none_iff, fun s w idle illegal => ⟨s.responses ++ [.done], ?_⟩⟩
  have issued := Machine.issue_idle (s := s.respond .done) (w := w) idle
  rw [illegal] at issued
  rw [Machine.step_offer_hostWR]
  exact issued

end Sys2Proof
end

section
/-! PROOFS. The checksum arithmetic read as numbers: the addends, one addition, the fold and the result
(40_checksum.md R101 to R106, R111). -/

namespace Sys2Proof.Machine

/-! ### The addends -/

/-- Two bytes side by side, the higher one first. -/
theorem byte_append_toNat (hi lo : Byte) : (hi ++ lo).toNat = 256 * hi.toNat + lo.toNat := by
  rw [BitVec.toNat_append, ← Nat.shiftLeft_add_eq_or_of_lt lo.isLt, Nat.shiftLeft_eq, Nat.mul_comm]

@[simp] theorem wordOf_little_toNat (b0 b1 : Byte) :
    (wordOf .little b0 b1).toNat = b0.toNat + 256 * b1.toNat :=
  (byte_append_toNat b1 b0).trans (Nat.add_comm _ _)

@[simp] theorem wordOf_big_toNat (b0 b1 : Byte) :
    (wordOf .big b0 b1).toNat = 256 * b0.toNat + b1.toNat :=
  byte_append_toNat b0 b1

/-! ### One addition -/

theorem accAdd_fst (acc : Word) (v : Half) :
    (accAdd acc v).1 = BitVec.ofNat 32 (acc.toNat + v.toNat) := by
  change BitVec.ofInt 32 (acc.toInt + v.toNat) = _
  rw [BitVec.ofInt_add, BitVec.ofInt_toInt, BitVec.ofNat_add, BitVec.ofNat_toNat, BitVec.setWidth_eq,
    BitVec.ofInt_natCast]

theorem accAdd_snd (acc : Word) (v : Half) : (accAdd acc v).2 = decide (2 ^ 31 ≤ acc.toInt + v.toNat) := by
  rw [Bool.eq_iff_iff, accAdd_overflow_iff, decide_eq_true_iff]

theorem accAdd_eq (acc : Word) (v : Half) :
    accAdd acc v = (BitVec.ofNat 32 (acc.toNat + v.toNat), decide (2 ^ 31 ≤ acc.toInt + v.toNat)) :=
  Prod.ext (accAdd_fst acc v) (accAdd_snd acc v)

@[simp] theorem accAdd_toNat (acc : Word) (v : Half) :
    (accAdd acc v).1.toNat = (acc.toNat + v.toNat) % 2 ^ 32 := by
  rw [accAdd_fst, BitVec.toNat_ofNat]

/-! ### The fold and the result -/

/-- The halves of a non-negative accumulator, added twice. -/
theorem fold_of_nonneg {acc : Word} (h : acc.toNat < 2 ^ 31) :
    fold acc = ((acc.toNat / 65536 + acc.toNat % 65536) +
      (acc.toNat / 65536 + acc.toNat % 65536) / 65536 : Nat) := by
  have n : s32 acc = acc.toNat := BitVec.toInt_eq_toNat_of_lt (by omega)
  simp only [fold, n, asr, low16]
  omega

theorem complement16_toNat (a2 : Int) : (complement16 a2).toNat = 0xFFFF - (a2 % 65536).toNat := by
  simp only [complement16, u32, BitVec.toNat_setWidth, BitVec.toNat_not, BitVec.toNat_ofInt]
  omega

/-- R111's `F`: the one's-complement residue of an accumulator. -/
def residue (n : Nat) : Nat := if n = 0 then 0 else (n - 1) % 0xFFFF + 1

theorem residue_le (n : Nat) : residue n ≤ 0xFFFF := by
  unfold residue
  split <;> omega

theorem residue_eq_zero_iff (n : Nat) : residue n = 0 ↔ n = 0 := by
  unfold residue
  split <;> omega

theorem residue_mod (n : Nat) : residue n % 0xFFFF = n % 0xFFFF := by
  unfold residue
  split <;> omega

/-- The residue is the one 16-bit value that is congruent to the number modulo 0xFFFF and is 0 for 0 alone. -/
theorem residue_eq {n r : Nat} (le : r ≤ 0xFFFF) (zero : r = 0 ↔ n = 0) (mod : r % 0xFFFF = n % 0xFFFF) :
    residue n = r := by
  have := residue_le n; have := residue_eq_zero_iff n; have := residue_mod n
  omega

/-- R111: 65536 is 1 modulo 0xFFFF, so the first addition of the halves keeps the residue, and the second brings it into
16 bits by subtracting 0xFFFF where the first passed them. -/
theorem fold_mod_of_nonneg {acc : Word} (h : acc.toNat < 2 ^ 31) : fold acc % 65536 = residue acc.toNat := by
  rw [fold_of_nonneg h]
  have small : acc.toNat / 65536 + acc.toNat % 65536 ≤ 0x17FFE := by omega
  have zero : acc.toNat / 65536 + acc.toNat % 65536 = 0 ↔ acc.toNat = 0 := by omega
  have mod : (acc.toNat / 65536 + acc.toNat % 65536) % 0xFFFF = acc.toNat % 0xFFFF := by omega
  generalize acc.toNat / 65536 + acc.toNat % 65536 = a1 at small zero mod ⊢
  have second : (a1 + a1 / 65536) % 65536 = if a1 < 65536 then a1 else a1 - 0xFFFF := by
    split <;> omega
  norm_cast
  rw [second]
  symm
  split
  · exact residue_eq (by omega) (by omega) (by omega)
  · exact residue_eq (by omega) (by omega) (by omega)

theorem result_toNat (acc : Word) : (result acc).toNat = 0xFFFF - (fold acc % 65536).toNat :=
  complement16_toNat (fold acc)

theorem result_of_nonneg {acc : Word} (h : acc.toNat < 2 ^ 31) : (result acc).toNat = 0xFFFF - residue acc.toNat := by
  rw [result_toNat, fold_mod_of_nonneg h, Int.toNat_natCast]

/-! ### The two bytes of a checksum -/

theorem bswap16_toNat (x : Half) : (bswap16 x).toNat = 256 * (x.toNat % 256) + x.toNat / 256 := by
  have := x.isLt
  rw [bswap16, byte_append_toNat]
  simp only [BitVec.extractLsb'_toNat, Nat.shiftRight_eq_div_pow]
  omega

/-- The bytes stored into a checksum field (R112) are the checksum's own as a word. -/
theorem exists_halfBytes_eq (e : Endian) (c : Half) : ∃ c0 c1, halfBytes e c = [c0, c1] ∧ wordOf e c0 c1 = c := by
  have := c.isLt
  cases e with
  | little =>
    refine ⟨_, _, rfl, BitVec.eq_of_toNat_eq ?_⟩
    rw [wordOf_little_toNat]
    simp only [BitVec.extractLsb'_toNat, Nat.shiftRight_eq_div_pow]
    omega
  | big =>
    refine ⟨_, _, rfl, BitVec.eq_of_toNat_eq ?_⟩
    rw [wordOf_big_toNat]
    simp only [BitVec.extractLsb'_toNat, Nat.shiftRight_eq_div_pow]
    omega

end Sys2Proof.Machine
end

section
/-! PROOFS. The sum of a byte sequence as one number (40_checksum.md R108, R110): the accumulator is that number modulo
2^32, and no addition overflows while it stays below 2^31. -/

namespace Sys2Proof.Machine

/-! ### The parts of a sum -/

/-- R114: words are paired from the start, so a split at an even position breaks none. -/
theorem sumBytes_append (e : Endian) (acc : Word) (first second : List Byte) (even : first.length % 2 = 0) :
    sumBytes e acc (first ++ second) =
      ((sumBytes e (sumBytes e acc first).1 second).1,
        (sumBytes e acc first).2 || (sumBytes e (sumBytes e acc first).1 second).2) := by
  induction acc, first using sumBytes.induct e with
  | case1 acc => simp [sumBytes]
  | case2 acc b => simp at even
  | case3 acc b0 b1 rest one ih =>
    have split := ih (by simp only [List.length_cons] at even; omega)
    simp only [List.cons_append, sumBytes]
    rw [split, Bool.or_assoc]

/-! ### The addends of a sequence -/

/-- What a byte sequence adds to an accumulator: its words and its trailing byte, before any wrap. -/
def addends (e : Endian) : List Byte → Nat
  | [] => 0
  | [b] => b.toNat
  | b0 :: b1 :: rest => (wordOf e b0 b1).toNat + addends e rest

theorem addends_append (e : Endian) (first second : List Byte) (even : first.length % 2 = 0) :
    addends e (first ++ second) = addends e first + addends e second := by
  induction first using addends.induct with
  | case1 => simp [addends]
  | case2 b => simp at even
  | case3 b0 b1 rest ih =>
    have split := ih (by simp only [List.length_cons] at even; omega)
    simp only [List.cons_append, addends]
    rw [split, Nat.add_assoc]

/-- R110's bound: a word is at most 0xFFFF and a trailing byte at most 0xFF. -/
theorem addends_le (e : Endian) (bytes : List Byte) :
    addends e bytes ≤ 0xFFFF * (bytes.length / 2) + 0xFF * (bytes.length % 2) := by
  induction bytes using addends.induct with
  | case1 => simp [addends]
  | case2 b =>
    have := b.isLt
    simp only [addends, List.length_singleton]
    omega
  | case3 b0 b1 rest ih =>
    have := (wordOf e b0 b1).isLt
    simp only [addends, List.length_cons]
    omega

theorem addends_le_of_length_le (e : Endian) {bytes : List Byte} (h : bytes.length ≤ 65537) :
    addends e bytes ≤ 0x7FFF80FF := by
  have := addends_le e bytes
  omega

/-- The bound is reached by bytes of 0xFF. -/
theorem addends_replicate_ones (e : Endian) (k : Nat) : addends e (List.replicate (2 * k) 0xFF#8) = 0xFFFF * k := by
  induction k with
  | zero => rfl
  | succ k ih =>
    have word : (wordOf e 0xFF#8 0xFF#8).toNat = 0xFFFF := by cases e <;> rfl
    rw [Nat.mul_succ, List.replicate_succ, List.replicate_succ, addends, word, ih]
    omega

/-! ### The accumulator of a sum -/

/-- While the accumulator and the addends stay below 2^31, the sum is their sum and no addition overflows. -/
theorem sumBytes_of_lt (e : Endian) (acc : Word) (bytes : List Byte)
    (h : acc.toNat + addends e bytes < 2 ^ 31) :
    sumBytes e acc bytes = (BitVec.ofNat 32 (acc.toNat + addends e bytes), false) := by
  have signed : acc.toInt = acc.toNat := BitVec.toInt_eq_toNat_of_lt (by omega)
  induction acc, bytes using sumBytes.induct e with
  | case1 acc => simp [sumBytes, addends]
  | case2 acc b =>
    have fits : ¬ 2 ^ 31 ≤ acc.toInt + b.toNat := by rw [signed]; simp only [addends] at h; omega
    simp only [sumBytes, addends, accAdd_eq, tailOf_toNat, fits, decide_false]
  | case3 acc b0 b1 rest one ih =>
    simp only [addends] at h
    have fits : ¬ 2 ^ 31 ≤ acc.toInt + (wordOf e b0 b1).toNat := by rw [signed]; omega
    have value : one.1.toNat = acc.toNat + (wordOf e b0 b1).toNat := by
      simp only [one, accAdd_toNat]; omega
    have tail := ih (by omega) (BitVec.toInt_eq_toNat_of_lt (by omega))
    simp only [sumBytes, addends]
    rw [tail, value, accAdd_snd, decide_eq_false fits, Nat.add_assoc, Bool.false_or]

/-- From accumulator 0 the sum of at most 65537 bytes is their addends' (R110). -/
theorem sumBytes_zero_of_length_le (e : Endian) {bytes : List Byte} (h : bytes.length ≤ 65537) :
    sumBytes e 0#32 bytes = (BitVec.ofNat 32 (addends e bytes), false) := by
  have := addends_le_of_length_le e h
  rw [sumBytes_of_lt e 0#32 bytes (by simp only [BitVec.toNat_ofNat]; omega)]
  simp

theorem checksum_toNat_of_length_le (e : Endian) {bytes : List Byte} (h : bytes.length ≤ 65537) :
    (checksum e bytes).toNat = 0xFFFF - residue (addends e bytes) := by
  have small := addends_le_of_length_le e h
  have value : (BitVec.ofNat 32 (addends e bytes)).toNat = addends e bytes := by
    rw [BitVec.toNat_ofNat]; omega
  unfold checksum initialAcc
  rw [sumBytes_zero_of_length_le e h, result_of_nonneg (by rw [value]; omega), value]

/-! ### The largest sums -/

/-- 65536 bytes of 0xFF, from accumulator 0. -/
theorem sumBytes_replicate_65536 (e : Endian) :
    sumBytes e 0#32 (List.replicate 65536 0xFF#8) = (0x7FFF8000#32, false) := by
  rw [sumBytes_zero_of_length_le e (by rw [List.length_replicate]; omega), addends_replicate_ones e 32768]

/-- More bytes after them go on from that accumulator. -/
theorem sumBytes_replicate_65536_append (e : Endian) (more : Nat) :
    sumBytes e 0#32 (List.replicate (65536 + more) 0xFF#8) =
      sumBytes e 0x7FFF8000#32 (List.replicate more 0xFF#8) := by
  rw [List.replicate_add, sumBytes_append e _ _ _ (by rw [List.length_replicate]), sumBytes_replicate_65536]
  simp

end Sys2Proof.Machine
end

section
/-! PROOFS. The two byte orders, and a field that holds the checksum (40_checksum.md R112, R113). -/

namespace Sys2Proof.Machine

/-- R113: a word's bytes swapped are 256 times the word modulo 0xFFFF. -/
theorem addends_big_mod (bytes : List Byte) (even : bytes.length % 2 = 0) :
    addends .big bytes % 0xFFFF = 256 * addends .little bytes % 0xFFFF := by
  induction bytes using addends.induct with
  | case1 => rfl
  | case2 b => simp at even
  | case3 b0 b1 rest ih =>
    have tail := ih (by simp only [List.length_cons] at even; omega)
    simp only [addends, wordOf_big_toNat, wordOf_little_toNat]
    omega

/-- In each byte order a sum is 0 for zero bytes alone. -/
theorem addends_eq_zero_iff (e : Endian) (bytes : List Byte) : addends e bytes = 0 ↔ ∀ b ∈ bytes, b.toNat = 0 := by
  induction bytes using addends.induct with
  | case1 => simp [addends]
  | case2 b => simp [addends]
  | case3 b0 b1 rest ih =>
    have word : (wordOf e b0 b1).toNat = 0 ↔ b0.toNat = 0 ∧ b1.toNat = 0 := by
      cases e with
      | little => rw [wordOf_little_toNat]; omega
      | big => rw [wordOf_big_toNat]; omega
    simp only [addends, List.forall_mem_cons, Nat.add_eq_zero_iff, word, ih, and_assoc]

theorem residue_addends_big (bytes : List Byte) (even : bytes.length % 2 = 0) :
    residue (addends .big bytes) =
      256 * (residue (addends .little bytes) % 256) + residue (addends .little bytes) / 256 := by
  have le := residue_le (addends .little bytes)
  have zero := residue_eq_zero_iff (addends .little bytes)
  have mod := residue_mod (addends .little bytes)
  have same : addends .big bytes = 0 ↔ addends .little bytes = 0 := by simp only [addends_eq_zero_iff]
  have swapped := addends_big_mod bytes even
  generalize residue (addends .little bytes) = r at le zero mod ⊢
  exact residue_eq (by omega) (by omega) (by omega)

/-- Adding its complement to a residue's number makes the residue all ones. -/
theorem residue_add_complement (n : Nat) : residue (n + (0xFFFF - residue n)) = 0xFFFF := by
  have le := residue_le n
  have zero := residue_eq_zero_iff n
  have mod := residue_mod n
  exact residue_eq (by omega) (by omega) (by omega)

/-- A field at an even offset is a word of its own in the sum. -/
theorem addends_field (e : Endian) (pre post : List Byte) (b0 b1 : Byte) (even : pre.length % 2 = 0) :
    addends e (pre ++ [b0, b1] ++ post) =
      addends e pre + addends e post + (wordOf e b0 b1).toNat := by
  rw [List.append_assoc, addends_append e _ _ even, List.cons_append, List.cons_append, List.nil_append, addends]
  omega

theorem checksum_field_eq_zero (e : Endian) (pre post : List Byte) (c0 c1 : Byte) (even : pre.length % 2 = 0)
    (short : pre.length + 2 + post.length ≤ 65537)
    (stored : wordOf e c0 c1 = checksum e (pre ++ [0#8, 0#8] ++ post)) :
    checksum e (pre ++ [c0, c1] ++ post) = 0#16 := by
  have length (b0 b1 : Byte) : (pre ++ [b0, b1] ++ post).length ≤ 65537 := by
    simp only [List.length_append, List.length_cons, List.length_nil]
    omega
  have zeroWord : (wordOf e 0#8 0#8).toNat = 0 := by cases e <;> rfl
  apply BitVec.eq_of_toNat_eq
  rw [checksum_toNat_of_length_le e (length c0 c1), addends_field e pre post c0 c1 even, stored,
    checksum_toNat_of_length_le e (length 0#8 0#8), addends_field e pre post 0#8 0#8 even, zeroWord, Nat.add_zero,
    residue_add_complement]
  rfl

end Sys2Proof.Machine
end

section
/-! PROOFS. The statements about the checksum arithmetic (40_checksum.md R101 to R114). -/

namespace Sys2Proof.Machine

/-- Settles O42: the sum of the two's-complement readings, wrapped; an addend is below 2^16, so only a non-negative
accumulator can reach 2^31, and it cannot pass 2^32. -/
theorem addWrapsAndReportsOverflow : Obligations.AddWrapsAndReportsOverflow := by
  unfold Obligations.AddWrapsAndReportsOverflow
  intro acc v
  have bound := v.isLt
  have signed := BitVec.toInt_eq_toNat_cond acc
  refine ⟨accAdd_toNat acc v, ?_, ?_, fun overflow => ?_⟩
  · rw [accAdd_overflow_iff]; omega
  · rw [accAdd_overflow_iff]; omega
  · rw [accAdd_overflow_iff] at overflow
    have high : 2 ^ 31 ≤ (accAdd acc v).1.toNat := by
      rw [accAdd_toNat]
      split at signed <;> omega
    have negative : (accAdd acc v).1.msb = true := BitVec.msb_eq_true_iff_two_mul_ge.mpr (by omega)
    rwa [BitVec.msb_eq_getLsbD_last] at negative

/-- Settles O44: `~u32(a2)` is 2^32 - 1 minus `a2` modulo 2^32, and the result complements the fold. -/
theorem resultComplementsFold : Obligations.ResultComplementsFold :=
  ⟨complement16_toNat, result_toNat⟩

/-- Settles O45: on the non-negative side the pattern is its own number, and `fold_mod_of_nonneg` is its residue. -/
theorem foldIsEndAroundCarry : Obligations.FoldIsEndAroundCarry := by
  unfold Obligations.FoldIsEndAroundCarry
  intro acc f nonneg hf
  have small : acc.toNat < 2 ^ 31 := by
    have signed := BitVec.toInt_eq_toNat_cond acc
    have := acc.isLt
    split at signed <;> omega
  have f_eq : f = residue acc.toNat := by
    rw [hf, residue]
    exact if_congr BitVec.toNat_inj.symm rfl rfl
  rw [f_eq]
  exact ⟨fold_mod_of_nonneg small, result_of_nonneg small⟩

/-- Settles O47: the addends of 65537 bytes stay below 2^31, and the last word of 65538 bytes of 0xFF passes it. -/
theorem noOverflowUpTo65537Bytes : Obligations.NoOverflowUpTo65537Bytes := by
  unfold Obligations.NoOverflowUpTo65537Bytes
  intro e
  have wraps : sumBytes e 0#32 (List.replicate 65538 0xFF#8) = (0x80007FFF#32, true) := by
    rw [sumBytes_replicate_65536_append e 2]; cases e <;> decide
  refine ⟨fun bytes h => ?_, ?_, wraps, ?_⟩
  · have := addends_le_of_length_le e h
    rw [sumBytes_zero_of_length_le e h]
    refine ⟨rfl, ?_⟩
    simp only [BitVec.toNat_ofNat]
    omega
  · rw [sumBytes_replicate_65536_append e 1]; cases e <;> decide
  · unfold checksum initialAcc
    rw [wraps]
    decide

/-- Settles O48: the field is a word of its own and turns the residue to all ones; at offset 1 it is cut in
two. -/
theorem checksumFieldSelfCheck : Obligations.ChecksumFieldSelfCheck := by
  unfold Obligations.ChecksumFieldSelfCheck
  exact ⟨checksum_field_eq_zero, exists_halfBytes_eq, .little, [1#8], [], by decide, by decide, by decide⟩

/-- Settles O49: the residues are byte swaps of each other, and so are their complements. -/
theorem byteOrdersSwapChecksum : Obligations.ByteOrdersSwapChecksum := by
  unfold Obligations.ByteOrdersSwapChecksum
  refine ⟨fun bytes even short => BitVec.eq_of_toNat_eq ?_, by decide, by decide, by decide, by decide⟩
  have le := residue_le (addends .little bytes)
  rw [bswap16_toNat, checksum_toNat_of_length_le .big (by omega), checksum_toNat_of_length_le .little (by omega),
    residue_addends_big bytes even]
  omega

/-- Settles O50: at position 1 of two bytes of value 1, the whole is a word and the parts are trailing bytes. -/
theorem sumSplitsAtEvenPositions : Obligations.SumSplitsAtEvenPositions := by
  unfold Obligations.SumSplitsAtEvenPositions
  refine ⟨sumBytes_append, fun e => ⟨[1#8], [1#8], rfl, ?_⟩⟩
  cases e <;> decide

/-- Settles O41: the addends by number, and `accAdd_toNat` for each of them. -/
theorem wordAndTailAreUnsigned : Obligations.WordAndTailAreUnsigned := by
  unfold Obligations.WordAndTailAreUnsigned
  intro b0 b1
  refine ⟨wordOf_little_toNat b0 b1, wordOf_big_toNat b0 b1, tailOf_toNat b0, fun acc => ⟨?_, ?_, ?_⟩⟩
  · rw [accAdd_toNat, wordOf_little_toNat]
  · rw [accAdd_toNat, wordOf_big_toNat]
  · rw [accAdd_toNat, tailOf_toNat]

/-- Settles O46: the cases of `sumBytes`, each addition by number. -/
theorem sumTakesWordsThenTail : Obligations.SumTakesWordsThenTail := by
  unfold Obligations.SumTakesWordsThenTail
  intro e acc b0 b1 rest
  refine ⟨rfl, ?_, ?_, rfl⟩
  · rw [sumBytes, accAdd_eq, tailOf_toNat]
  · rw [sumBytes, accAdd_eq]

end Sys2Proof.Machine
end

section
/-! PROOFS. What each command does at an idle CSUM, as one equation (41_commands.md R121 to R126), and the engine's two
steps (R127 to R129). -/

namespace Sys2Proof

/-! ### The words of the commands -/

theorem encode_add2_toNat (b0 b1 : Byte) :
    (encode (.add2 b0 b1)).toNat = b1.toNat * 2 ^ 16 + b0.toNat * 2 ^ 8 + 2 := by
  simp [encode, cmdWord_toNat]

theorem encode_add1_toNat (b0 : Byte) : (encode (.add1 b0)).toNat = b0.toNat * 2 ^ 8 + 3 := by
  simp [encode, cmdWord_toNat]

/-- A command whose word is its opcode alone: any other word with that opcode is illegal (R74). -/
theorem decode_eq_none_of_op_alone {w : Word} {op : Nat} (hop : op = 0 ∨ op = 1 ∨ op = 4) (hw : w.toNat % 256 = op)
    (ne : w ≠ BitVec.ofNat 32 op) : decode w = none := by
  have ne : w.toNat ≠ op := fun e => ne (by rw [← e, BitVec.ofNat_toNat, BitVec.setWidth_eq])
  rw [decode_eq_none_iff]
  omega

end Sys2Proof

namespace Sys2Proof.Machine

/-! ### The commands -/

theorem exec_total (i : Instr) (s : State) : ∃ t, exec i s = .next t := by
  cases i <;> exact ⟨_, rfl⟩

/-- An addition of a command by number. -/
theorem State.addData_eq (s : State) (v : Half) : s.addData v = { s with
    acc := BitVec.ofNat 32 (s.acc.toNat + v.toNat)
    ovf := s.ovf || decide (2 ^ 31 ≤ s.acc.toInt + v.toNat)
    tailv := s.tailv || s.tail } := by
  rw [State.addData, accAdd_eq]

section idle

variable {s : State} (hb : s.busy = false)
include hb

theorem exec_nop_idle : exec .nop s = .next s := congrArg _ (State.unlessBusy_idle hb)

theorem exec_clear_idle :
    exec .clear s = .next { s with acc := 0#32, ovf := false, tail := false, tailv := false } :=
  congrArg _ (State.unlessBusy_idle hb)

theorem exec_add2_idle (b0 b1 : Byte) :
    exec (.add2 b0 b1) s = .next (s.addData (wordOf s.params.hostEndian b0 b1)) :=
  congrArg _ (State.unlessBusy_idle hb)

theorem exec_add1_idle (b0 : Byte) : exec (.add1 b0) s = .next { s.addData (tailOf b0) with tail := true } :=
  congrArg _ (State.unlessBusy_idle hb)

theorem exec_buf_idle : exec .buf s =
    .next (if s.rangeBad then s.raise .range else if s.len = 0#32 then s else s.startEngine) :=
  congrArg _ (State.unlessBusy_idle hb)

end idle

/-! ### The engine -/

/-- With bytes remaining, the engine's turn is its read step (R127). -/
theorem step_grant_engine_read {s : State} (hb : s.busy = true) (hl : s.engBytes.length < s.engLen.toNat) :
    step (s.grant .engine) = .next ((s.noteRead s.engineAddr).takeAnswer (s.memRead s.engineAddr)) := by
  rw [step_grant_engine, engineStep, if_pos hb, if_pos hl]
  rfl

/-- With every byte read, the engine's turn is its commit step (R128). -/
theorem step_grant_engine_commit {s : State} (hb : s.busy = true) (hl : s.engBytes.length = s.engLen.toNat) :
    step (s.grant .engine) = .next s.commit :=
  step_of_commits (s := s.grant .engine) ⟨rfl, hb, hl⟩

/-- The commit with the bit that sets TAIL read as the parity of the length. -/
theorem State.commit_eq (s : State) : s.commit = { s with
    acc := (sumBytes s.params.hostEndian s.engAcc0 s.settledBytes).1
    ovf := s.ovf || (sumBytes s.params.hostEndian s.engAcc0 s.settledBytes).2
    tailv := s.tailv || s.engTail0
    tail := s.tail || decide (s.engLen.toNat % 2 = 1)
    busy := false } := by
  have odd : s.engLen.getLsbD 0 = decide (s.engLen.toNat % 2 = 1) := Nat.testBit_zero _
  rw [State.commit, odd]

end Sys2Proof.Machine
end

section
/-! PROOFS. The statements about the commands and the engine's steps (41_commands.md R120 to R129). -/

namespace Sys2Proof.Machine

/-- Settles O8: `issue_busy` and `issue_idle` are the order of the checks, and `exec_busy_iff` says which commands
complete. -/
theorem issueChecksBusyThenDecodes : Obligations.IssueChecksBusyThenDecodes := by
  unfold Obligations.IssueChecksBusyThenDecodes
  intro s w
  have issued : step (s.offer (hostWR s.params .cmd w)) = issue w (s.respond .done) := step_offer_hostWR s .cmd w
  refine ⟨s.responses ++ [.done], fun busy => ?_, fun idle illegal => ?_, fun i idle legal => ⟨?_, ?_, ?_⟩⟩
  · rw [issued, issue_busy (s := s.respond .done) busy]
    rfl
  · rw [issued, issue_idle (s := s.respond .done) idle, illegal]
    rfl
  · rw [issued, issue_idle (s := s.respond .done) idle, legal]
    rfl
  · intro other
    obtain ⟨t, ht⟩ := exec_total i s
    refine ⟨t, ht, Bool.eq_false_iff.mpr fun started => other ?_⟩
    exact ((exec_busy_iff idle ht).mp started).1
  · rintro rfl
    obtain ⟨t, ht⟩ := exec_total .buf s
    have pos : 0 < s.len.toNat ↔ s.len ≠ 0#32 := Nat.pos_iff_ne_zero.trans (BitVec.toNat_inj (y := 0#32)).not
    exact ⟨t, ht, by rw [exec_busy_iff idle ht, pos, eq_self, true_and]⟩

/-- Settles O27: `State.addData` by number, at the word of the two bytes. -/
theorem add2Result : Obligations.Add2Result := by
  unfold Obligations.Add2Result
  refine ⟨encode_add2_toNat, fun w op rsvd => ?_, fun s b0 b1 v hv => ⟨fun idle => ?_, exec_busy⟩⟩
  · rw [decode_eq_none_iff]
    omega
  · have word : (wordOf s.params.hostEndian b0 b1).toNat = v := by
      subst hv
      cases s.params.hostEndian with
      | little => exact wordOf_little_toNat b0 b1
      | big => exact wordOf_big_toNat b0 b1
    rw [exec_add2_idle idle, State.addData_eq, word]

/-- Settles O28: `State.addData` by number, at the trailing byte. -/
theorem add1Result : Obligations.Add1Result := by
  unfold Obligations.Add1Result
  refine ⟨encode_add1_toNat, fun w op high => ?_, fun s b0 => ⟨fun idle => ?_, exec_busy⟩⟩
  · rw [decode_eq_none_iff]
    omega
  · rw [exec_add1_idle idle, State.addData_eq, tailOf_toNat]

/-- Settles O29: the branches of BUF's start, the range test read by number. -/
theorem bufAcceptance : Obligations.BufAcceptance := by
  unfold Obligations.BufAcceptance
  refine ⟨rfl, fun w => decode_eq_none_of_op_alone (op := 4) (by decide), fun s => ⟨exec_busy, ?_, ?_, ?_⟩⟩
  · intro idle bad
    rw [exec_buf_idle idle, if_pos (s.rangeBad_iff.mpr bad)]
    rfl
  · intro idle legal zero
    rw [exec_buf_idle idle, if_neg (mt s.rangeBad_iff.mp legal.not_gt), if_pos zero]
  · intro idle legal pos
    rw [exec_buf_idle idle, if_neg (mt s.rangeBad_iff.mp legal.not_gt), if_neg pos]
    rfl

/-- Settles O31: the read step takes the platform's answer, whichever it is. -/
theorem engineReadTakesOrAborts : Obligations.EngineReadTakesOrAborts := by
  unfold Obligations.EngineReadTakesOrAborts
  constructor
  · rintro s _ busy remains rfl
    have read := step_grant_engine_read busy remains
    refine ⟨fun b answer => ?_, fun answer => ?_⟩
    · rw [read, State.engineAddr, answer]
      rfl
    · rw [read, State.engineAddr, answer]
      rfl
  · intro s idle
    rw [step_grant_engine, engineStep_idle idle]

/-- Settles O32: where nothing raced, the settled bytes are the bytes read. -/
theorem engineCommits : Obligations.EngineCommits := by
  unfold Obligations.EngineCommits
  intro s busy all quiet
  rw [step_grant_engine_commit busy all, State.commit_eq, State.settledBytes_quiet (all ▸ quiet)]

/-- Settles O25, by NOP's rule and the illegal words of its opcode. -/
theorem nopResult : Obligations.NopResult := by
  unfold Obligations.NopResult
  exact ⟨rfl, fun w => decode_eq_none_of_op_alone (op := 0) (by decide), fun s => ⟨exec_nop_idle, exec_busy⟩⟩

/-- Settles O26, by CLEAR's rule. -/
theorem clearResult : Obligations.ClearResult := by
  unfold Obligations.ClearResult
  exact ⟨rfl, fun s => ⟨exec_clear_idle, exec_busy⟩⟩

end Sys2Proof.Machine
end

section
/-! PROOFS. The error record: what raises, keeps and clears it, over every step (60_exceptions.md R141 to R146). -/

namespace Sys2Proof.Machine

/-! ### Raising an error -/

/-- R141: the first error is recorded. -/
theorem State.raise_of_no_err {s : State} (c : ErrCode) (h : s.err = false) :
    s.raise c = { s with err := true, errcode := c.code } := by
  rw [State.raise, h, if_neg Bool.false_ne_true]

/-- R141: a later error is dropped. -/
theorem State.raise_of_err {s : State} (c : ErrCode) (h : s.err = true) : s.raise c = s := by
  rw [State.raise, if_pos h, ← h]

/-- Settles O17: the two branches of `State.raise`. -/
theorem raiseKeepsFirstError : Obligations.RaiseKeepsFirstError :=
  fun _ c => ⟨State.raise_of_no_err c, State.raise_of_err c⟩

/-! ### Commands with an error recorded -/

/-- The state with an error of code `c` recorded (R144's ERR = 1). -/
def State.withError (c : BitVec 4) (s : State) : State := { s with err := true, errcode := c }

/-- R144: the record neither changes what a command does nor is changed by it. -/
theorem exec_withError {i : Instr} {s t : State} (c : BitVec 4) (h : exec i s = .next t) :
    exec i (s.withError c) = .next (t.withError c) := by
  cases hb : s.busy with
  | true => cases (exec_busy hb).symm.trans h; exact exec_busy (s := s.withError c) hb
  | false =>
    have hb' : (s.withError c).busy = false := hb
    cases i with
    | nop => cases (exec_nop_idle hb).symm.trans h; exact exec_nop_idle hb'
    | clear => cases (exec_clear_idle hb).symm.trans h; exact exec_clear_idle hb'
    | add2 b0 b1 => cases (exec_add2_idle hb b0 b1).symm.trans h; exact exec_add2_idle hb' b0 b1
    | add1 b0 => cases (exec_add1_idle hb b0).symm.trans h; exact exec_add1_idle hb' b0
    | buf =>
      cases (exec_buf_idle hb).symm.trans h
      rw [exec_buf_idle hb', apply_ite (State.withError c), apply_ite (State.withError c)]
      rfl

/-- Settles O19, by `exec_withError`, which holds whatever ERR is. -/
theorem errorsDoNotBlockCommands : Obligations.ErrorsDoNotBlockCommands := by
  unfold Obligations.ErrorsDoNotBlockCommands
  intro i s c _
  obtain ⟨t, ht⟩ := exec_total i s
  exact ⟨t, ht, exec_withError c ht⟩

/-! ### The record after a command word -/

/-- ERR and ERRCODE. -/
def State.errorRecord (s : State) : Bool × BitVec 4 := (s.err, s.errcode)

/-- The error a CMD write of `w` raises: the first that applies (R146). -/
def State.cmdError (s : State) (w : Word) : Option ErrCode :=
  if s.busy then some .busy
  else if decode w = none then some .illegal
  else if w = 4#32 ∧ s.src.toNat + s.len.toNat > 2 ^ 32 then some .range
  else none

/-- A command at an idle CSUM touches the record only where BUF's range is bad. -/
theorem exec_errorRecord {i : Instr} {s t : State} (hb : s.busy = false) (h : exec i s = .next t) :
    t.errorRecord = if i = .buf ∧ s.rangeBad = true then (s.raise .range).errorRecord else s.errorRecord := by
  rcases exec_idle_cases hb h with
    ⟨rfl, rfl⟩ | ⟨rfl, rfl⟩ | ⟨b0, b1, rfl, rfl⟩ | ⟨b0, rfl, rfl⟩ | ⟨rfl, bad, rfl⟩ | ⟨rfl, ok, -, rfl⟩ |
    ⟨rfl, ok, -, rfl⟩
  · rfl
  · rfl
  · rfl
  · rfl
  · rw [if_pos ⟨rfl, bad⟩]
  · rw [if_neg (by simp [ok])]
  · rw [if_neg (by simp [ok])]; rfl

/-- A CMD write raises the first error that applies and no other. -/
theorem issue_errorRecord {w : Word} {s t : State} (h : issue w s = .next t) :
    t.errorRecord = ((s.cmdError w).elim s (State.raise · s)).errorRecord := by
  unfold State.cmdError
  cases hb : s.busy with
  | true => cases (issue_busy hb).symm.trans h; rfl
  | false =>
    rw [issue_idle hb] at h
    cases hd : decode w with
    | none => rw [hd] at h; cases h; rfl
    | some i =>
      rw [hd] at h
      have buf : i = .buf ↔ w = 4#32 := by
        rw [← Option.some_inj, ← hd, decode_eq_some_iff]
        rfl
      simp only [exec_errorRecord hb h, buf, s.rangeBad_iff, Bool.false_eq_true, reduceCtorEq, if_false]
      split <;> rfl

/-! ### The record after a register write -/

/-- The record is kept, or an error that is not BUSERR is raised. -/
def State.KeepsOrRaises (s t : State) : Prop :=
  t.errorRecord = s.errorRecord ∨ ∃ c ≠ .busErr, t.errorRecord = (s.raise c).errorRecord

theorem issue_keepsOrRaises {w : Word} {s t : State} (h : issue w s = .next t) : s.KeepsOrRaises t := by
  have record := issue_errorRecord h
  unfold State.cmdError at record
  split at record
  · exact .inr ⟨.busy, by decide, record⟩
  split at record
  · exact .inr ⟨.illegal, by decide, record⟩
  split at record
  · exact .inr ⟨.range, by decide, record⟩
  · exact .inl record

theorem State.unlessBusy_keepsOrRaises {s : State} {f : State → State}
    (hf : (f s).errorRecord = s.errorRecord) : s.KeepsOrRaises (s.unlessBusy f) := by
  cases hb : s.busy with
  | true => exact .inr ⟨.busy, by decide, by rw [State.unlessBusy_busy hb]⟩
  | false => exact .inl (by rw [State.unlessBusy_idle hb, hf])

/-- A STATUS write clears the record or keeps it, by bit 4 (R34). -/
theorem State.writeStatus_errorRecord (v : Word) (s : State) :
    (s.writeStatus v).errorRecord = if v.getLsbD 4 then (false, 0#4) else s.errorRecord := by
  rw [State.writeStatus_eq, State.errorRecord]
  cases v.getLsbD 4 <;> rfl

/-- A write of any other register never clears the record. -/
theorem writeReg_keepsOrRaises {r : Reg} {v : Word} {s t : State} (hr : r ≠ .status)
    (h : writeReg r v s = .next t) : s.KeepsOrRaises t := by
  cases r with
  | status => exact absurd rfl hr
  | cmd => exact issue_keepsOrRaises h
  | id | result | rsvd => cases h; exact .inl rfl
  | acc | src | len => cases h; exact State.unlessBusy_keepsOrRaises rfl

/-! ### The record after a step -/

/-- The next step clears the record: a reset, or a host's STATUS write with bit 4 = 1 (R143). -/
def State.clearsError (s : State) : Prop :=
  s.nextTurn = .reset ∨ ∃ v, s.hostWrites .status v ∧ v.getLsbD 4 = true

/-- The engine's turn raises BUSERR where it aborts, and otherwise keeps the record. -/
theorem engineTurn_errorRecord {s : State} (hn : s.nextTurn = .engine) :
    (¬ s.aborts ∧ (engineStep s.popTurn).errorRecord = s.errorRecord) ∨
    (s.aborts ∧ (engineStep s.popTurn).errorRecord = (s.raise .busErr).errorRecord) := by
  rcases engineStep_cases s.popTurn with ⟨e, h⟩ | ⟨b, e, -, -, hm⟩ | ⟨e, hb, hl, hm⟩ | ⟨e, -, hl⟩
  · refine .inl ⟨?_, by rw [e]; rfl⟩
    rintro ⟨-, busy, remains, -⟩
    exact h.elim (fun idle => nomatch busy.symm.trans idle) (fun past => past.not_gt remains)
  · refine .inl ⟨?_, by rw [e]; rfl⟩
    rintro ⟨-, -, -, refused⟩
    cases hm.symm.trans refused
  · exact .inr ⟨⟨hn, hb, hl, hm⟩, by rw [e]; rfl⟩
  · refine .inl ⟨?_, by rw [e]; rfl⟩
    rintro ⟨-, -, remains, -⟩
    exact remains.ne hl

/-- A host's operation clears the record by a STATUS write with bit 4 = 1, and otherwise keeps it or raises an error. -/
theorem hostStep_errorRecord {op : HostOp} {s t : State} (h : hostStep op s = .next t) :
    ((∃ v, op = hostWR s.params .status v ∧ v.getLsbD 4 = true) ∧ t.errorRecord = (false, 0#4)) ∨
    ((¬ ∃ v, op = hostWR s.params .status v ∧ v.getLsbD 4 = true) ∧ s.KeepsOrRaises t) := by
  rcases hostStep_cases h with ⟨r, v, rfl, hw⟩ | ⟨other, e⟩
  · simp only [hostWR_inj]
    by_cases hr : r = .status
    · subst hr
      cases hw
      have record := (s.respond .done).writeStatus_errorRecord v
      cases hv : v.getLsbD 4 with
      | true => exact .inl ⟨⟨v, ⟨rfl, rfl⟩, hv⟩, by rw [record, hv, if_pos rfl]⟩
      | false =>
        rw [hv] at record
        refine .inr ⟨?_, .inl record⟩
        rintro ⟨v, ⟨-, rfl⟩, set⟩
        exact nomatch hv.symm.trans set
    · exact .inr ⟨fun ⟨_, ⟨status, _⟩, _⟩ => hr status, writeReg_keepsOrRaises (s := s.respond .done) hr hw⟩
  · refine .inr ⟨fun ⟨v, e, _⟩ => other .status v e, .inl ?_⟩
    rw [e]
    rfl

/-- All a step can do to the record. -/
theorem step_errorRecord {s t : State} (h : step s = .next t) :
    (s.clearsError ∧ t.errorRecord = (false, 0#4)) ∨
    (¬ s.clearsError ∧ ¬ s.aborts ∧ s.KeepsOrRaises t) ∨
    (¬ s.clearsError ∧ s.aborts ∧ t.errorRecord = (s.raise .busErr).errorRecord) := by
  rcases step_cases h with ⟨hn, rfl⟩ | ⟨hn, rfl⟩ | ⟨hn, hh, rfl⟩ | ⟨op, rest, hn, hh, hs⟩
  · exact .inl ⟨.inl hn, rfl⟩
  · have kept : ¬ s.clearsError := by simp [State.clearsError, State.hostWrites, hn]
    rcases engineTurn_errorRecord hn with ⟨go, e⟩ | ⟨stop, e⟩
    · exact .inr (.inl ⟨kept, go, .inl e⟩)
    · exact .inr (.inr ⟨kept, stop, e⟩)
  · refine .inr (.inl ⟨?_, ?_, .inl rfl⟩)
    · simp [State.clearsError, State.hostWrites, hn, hh]
    · simp [State.aborts, hn]
  · have clears : s.clearsError ↔ ∃ v, op = hostWR s.params .status v ∧ v.getLsbD 4 = true := by
      simp [State.clearsError, State.hostWrites, hn, hh]
    rw [clears]
    exact (hostStep_errorRecord hs).imp_right fun ⟨kept, e⟩ => .inl ⟨kept, by simp [State.aborts, hn], e⟩

/-- A recorded error is cleared or stays as it is (R141, R143). -/
theorem step_errorRecord_of_err {s t : State} (h : step s = .next t) (he : s.err = true) :
    (s.clearsError ∧ t.errorRecord = (false, 0#4)) ∨ (¬ s.clearsError ∧ t.errorRecord = s.errorRecord) := by
  have dropped (c : ErrCode) : (s.raise c).errorRecord = s.errorRecord := by rw [State.raise_of_err c he]
  rcases step_errorRecord h with cleared | ⟨kept, -, e | ⟨c, -, e⟩⟩ | ⟨kept, -, e⟩
  · exact .inl cleared
  · exact .inr ⟨kept, e⟩
  · exact .inr ⟨kept, e.trans (dropped c)⟩
  · exact .inr ⟨kept, e.trans (dropped .busErr)⟩

/-! ### The statements -/

/-- Settles O18, by `step_errorRecord_of_err`: the two steps that clear the record are the two named ones. -/
theorem errorClearedOnlyByStatusOrReset : Obligations.ErrorClearedOnlyByStatusOrReset := by
  unfold Obligations.ErrorClearedOnlyByStatusOrReset
  intro s t h he
  rcases step_errorRecord_of_err h he with ⟨clears, e⟩ | ⟨keeps, e⟩
  · obtain ⟨err, code⟩ := Prod.mk_inj.mp e
    exact ⟨.inr ⟨err, code⟩, iff_of_true err clears⟩
  · obtain ⟨err, code⟩ := Prod.mk_inj.mp e
    exact ⟨.inl ⟨err.trans he, code⟩, iff_of_false (by rw [err, he]; decide) keeps⟩

/-- The code a first error records is 4 for BUSERR alone (R140). -/
theorem ErrCode.code_eq_four_iff {c : ErrCode} : c.code = 4#4 ↔ c = .busErr := by
  cases c <;> decide

/-- A step that records a first error records BUSERR exactly where the engine aborts (R146). -/
theorem step_first_error {s t : State} (h : step s = .next t) (he : s.err = false) (ht : t.err = true) :
    t.errcode = 4#4 ↔ s.aborts := by
  have first (c : ErrCode) (e : t.errorRecord = (s.raise c).errorRecord) : t.errcode = c.code := by
    rw [State.raise_of_no_err c he] at e
    exact congrArg Prod.snd e
  rcases step_errorRecord h with ⟨-, e⟩ | ⟨-, go, e | ⟨c, other, e⟩⟩ | ⟨-, stop, e⟩
  · exact nomatch ht.symm.trans (congrArg Prod.fst e)
  · exact nomatch ht.symm.trans ((congrArg Prod.fst e).trans he)
  · rw [first c e, ErrCode.code_eq_four_iff]
    exact iff_of_false other go
  · exact iff_of_true (first .busErr e) stop

/-- A CMD write where no error is recorded leaves the record of the first error that applies, or none. -/
theorem issue_first_error {w : Word} {s t : State} (h : issue w s = .next t) (he : s.err = false) :
    t.errorRecord = (s.cmdError w).elim (false, s.errcode) fun c => (true, c.code) := by
  rw [issue_errorRecord h]
  cases s.cmdError w with
  | none => exact congrArg (·, s.errcode) he
  | some c => exact congrArg State.errorRecord (State.raise_of_no_err c he)

theorem issue_total (w : Word) (s : State) : ∃ t, issue w s = .next t := by
  unfold issue
  cases decode w with
  | none => exact ⟨_, rfl⟩
  | some i => exact exec_total i s

/-- Settles O20: `State.cmdError` is the order of the checks, and an engine step that raises is an abort. -/
theorem errorPriority : Obligations.ErrorPriority := by
  unfold Obligations.ErrorPriority
  refine ⟨fun s w he => ?_, fun s he => ?_, fun s t => step_first_error⟩
  · obtain ⟨t, ht⟩ := issue_total w (s.respond .done)
    refine ⟨t, (step_offer_hostWR s .cmd w).trans ht, ?_⟩
    have record : t.errorRecord = (s.cmdError w).elim (false, s.errcode) fun c => (true, c.code) :=
      issue_first_error (s := s.respond .done) ht he
    refine record.trans ?_
    simp only [State.cmdError, apply_ite (Option.elim · (false, s.errcode) fun c : ErrCode => (true, c.code))]
    rfl
  · refine ⟨_, step_grant_engine s, fun raised => ?_⟩
    rcases engineTurn_errorRecord (s := s.grant .engine) rfl with ⟨-, e⟩ | ⟨stop, -⟩
    · exact nomatch raised.symm.trans ((congrArg Prod.fst e).trans he)
    · exact (step_first_error (step_grant_engine s) he raised).mpr stop

end Sys2Proof.Machine
end

section
/-! PROOFS. The reset step (70_reset_and_hazards.md R160, R161). -/

namespace Sys2Proof.Machine

theorem State.resetStep_afterReset (s : State) : s.resetStep.afterReset :=
  ⟨s.resetStep_acc, s.resetStep_src, s.resetStep_len, s.resetStep_busy, s.resetStep_ovf, s.resetStep_tail,
    s.resetStep_tailv, s.resetStep_err, s.resetStep_errcode⟩

/-- ID is a function of the configuration alone (R22), so what keeps the configuration keeps ID. -/
theorem readReg_id_congr {s t : State} (h : t.params = s.params) : t.readReg .id = s.readReg .id :=
  congrArg idWord h

/-- Settles O51: a granted reset's step is `resetStep`, which no condition on BUSY guards. -/
theorem resetClearsEverything : Obligations.ResetClearsEverything := by
  unfold Obligations.ResetClearsEverything
  intro s
  have config : s.resetStep.params = s.params := s.resetStep_params
  exact ⟨s.resetStep, step_grant_reset s, s.resetStep_afterReset, config, readReg_id_congr config,
    s.resetStep_engineReads⟩

end Sys2Proof.Machine
end

section
/-! PROOFS. The statements about the words of the commands and the assembler (30_encoding.md R73, R76, R77). -/

namespace Sys2Proof

/-- Settles O2: `decode_encode` and `encode_of_decode` are its two halves. -/
theorem decodeInvertsEncode : Obligations.DecodeInvertsEncode :=
  ⟨decode_encode, fun _ _ => encode_of_decode⟩

/-- Settles O1, by running the decoder on each word of the table. -/
theorem commandWordsDecodeAsTabled : Obligations.CommandWordsDecodeAsTabled := by
  unfold Obligations.CommandWordsDecodeAsTabled
  decide

/-- Settles O6: an operand that passes the check is its byte's number, so the word is the number of its fields. -/
theorem assemblerRefusesOutOfRange : Obligations.AssemblerRefusesOutOfRange := by
  unfold Obligations.AssemblerRefusesOutOfRange
  refine ⟨rfl, rfl, rfl, fun b0 b1 => ?_, fun b0 => ?_⟩
  · simp only [assemble, Asm.wellFormed, operandOk, Asm.toInstr, Bool.and_eq_true, decide_eq_true_eq]
    refine if_ctx_congr Iff.rfl (fun h => congrArg some (BitVec.eq_of_toNat_eq ?_)) fun _ => rfl
    simp only [encode_add2_toNat, BitVec.toNat_ofNat]
    omega
  · simp only [assemble, Asm.wellFormed, operandOk, Asm.toInstr, decide_eq_true_eq]
    refine if_ctx_congr Iff.rfl (fun h => congrArg some (BitVec.eq_of_toNat_eq ?_)) fun _ => rfl
    simp only [encode_add1_toNat, BitVec.toNat_ofNat]
    omega

end Sys2Proof
end

section
/-! PROOFS. What no command and no register write changes (41_commands.md R121 to R126). -/

namespace Sys2Proof.Machine

/-- Two states with the same configuration, memory, bus, hosts and schedule, and the same record of them: they may
differ in CSUM's registers, flags and engine alone. -/
structure State.SamePlatform (s t : State) : Prop where
  params : t.params = s.params
  mem : t.mem = s.mem
  busErrs : t.busErrs = s.busErrs
  engineReads : t.engineReads = s.engineReads
  host : t.host = s.host
  sched : t.sched = s.sched
  responses : t.responses = s.responses

theorem exec_samePlatform {i : Instr} {s t : State} (h : exec i s = .next t) : s.SamePlatform t := by
  cases hb : s.busy with
  | true => cases (exec_busy hb).symm.trans h; exact ⟨rfl, rfl, rfl, rfl, rfl, rfl, rfl⟩
  | false =>
    rcases exec_idle_cases hb h with
      ⟨-, rfl⟩ | ⟨-, rfl⟩ | ⟨b0, b1, -, rfl⟩ | ⟨b0, -, rfl⟩ | ⟨-, -, rfl⟩ | ⟨-, -, -, rfl⟩ | ⟨-, -, -, rfl⟩ <;>
      exact ⟨rfl, rfl, rfl, rfl, rfl, rfl, rfl⟩

theorem writeReg_samePlatform {r : Reg} {v : Word} {s t : State} (h : writeReg r v s = .next t) :
    s.SamePlatform t := by
  rcases writeReg_cases h with
    ⟨-, rfl⟩ | ⟨-, rfl⟩ | ⟨-, -, rfl⟩ | ⟨-, ⟨-, rfl⟩ | ⟨-, rfl⟩ | ⟨-, rfl⟩⟩ | ⟨-, -, -, rfl⟩ | ⟨-, -, i, -, he⟩
  case inr.inr.inr.inr.inr => exact exec_samePlatform he
  all_goals exact ⟨rfl, rfl, rfl, rfl, rfl, rfl, rfl⟩

/-- A command keeps SRC and LEN. -/
theorem exec_operands {i : Instr} {s t : State} (h : exec i s = .next t) : t.src = s.src ∧ t.len = s.len := by
  cases hb : s.busy with
  | true => cases (exec_busy hb).symm.trans h; exact ⟨rfl, rfl⟩
  | false =>
    rcases exec_idle_cases hb h with
      ⟨-, rfl⟩ | ⟨-, rfl⟩ | ⟨b0, b1, -, rfl⟩ | ⟨b0, -, rfl⟩ | ⟨-, -, rfl⟩ | ⟨-, -, -, rfl⟩ | ⟨-, -, -, rfl⟩ <;>
      exact ⟨rfl, rfl⟩

/-- Settles O30: what every command keeps is `exec_samePlatform` and `exec_operands`, and what some keep is read off
`exec_idle_cases`; at a busy CSUM a command only raises BUSY. -/
theorem commandFrame : Obligations.CommandFrame := by
  unfold Obligations.CommandFrame
  intro i s t h
  obtain ⟨params, mem, busErrs, reads, host, sched, responses⟩ := exec_samePlatform h
  obtain ⟨src, len⟩ := exec_operands h
  refine ⟨⟨src, len, params, busErrs, reads, host, sched, responses⟩, fun a => by rw [mem], ?_⟩
  cases hb : s.busy with
  | true => cases (exec_busy hb).symm.trans h; simp [hb]
  | false =>
    rcases exec_idle_cases hb h with
      ⟨rfl, rfl⟩ | ⟨rfl, rfl⟩ | ⟨b0, b1, rfl, rfl⟩ | ⟨b0, rfl, rfl⟩ | ⟨rfl, bad, rfl⟩ | ⟨rfl, -, -, rfl⟩ |
      ⟨rfl, -, -, rfl⟩
    · simp [hb]
    · simp [hb]
    · simp [hb]
    · simp [hb]
    · have bad := s.rangeBad_iff.mp bad
      exact ⟨fun other => absurd rfl other, fun _ => ⟨rfl, rfl, rfl, rfl⟩, nofun,
        fun _ legal => absurd ⟨rfl, bad⟩ legal⟩
    · simp
    · simp

end Sys2Proof.Machine
end

section
/-! PROOFS. The invariant over every step (10_state.md R33, R36; 41_commands.md R125, R126). -/

namespace Sys2Proof.Machine

/-! ### The BUF in flight -/

/-- Two states with the same BUSY, the same operand registers and the same BUF in flight. -/
structure State.SameBuf (s t : State) : Prop where
  busy : t.busy = s.busy
  acc : t.acc = s.acc
  src : t.src = s.src
  len : t.len = s.len
  tail : t.tail = s.tail
  params : t.params = s.params
  engSrc : t.engSrc = s.engSrc
  engLen : t.engLen = s.engLen
  engAcc0 : t.engAcc0 = s.engAcc0
  engTail0 : t.engTail0 = s.engTail0
  engBytes : t.engBytes = s.engBytes

theorem State.SameBuf.trans {s t u : State} (h : s.SameBuf t) (h' : t.SameBuf u) : s.SameBuf u where
  busy := h'.busy.trans h.busy
  acc := h'.acc.trans h.acc
  src := h'.src.trans h.src
  len := h'.len.trans h.len
  tail := h'.tail.trans h.tail
  params := h'.params.trans h.params
  engSrc := h'.engSrc.trans h.engSrc
  engLen := h'.engLen.trans h.engLen
  engAcc0 := h'.engAcc0.trans h.engAcc0
  engTail0 := h'.engTail0.trans h.engTail0
  engBytes := h'.engBytes.trans h.engBytes

/-- The turns, the operations pending and the port's record are no part of a BUF. -/
theorem State.sameBuf_served (s : State) (host : List HostOp) (sched : List Turn) (rs : List Response) :
    s.SameBuf { s with host := host, sched := sched, responses := rs } :=
  ⟨rfl, rfl, rfl, rfl, rfl, rfl, rfl, rfl, rfl, rfl, rfl⟩

theorem writeReg_sameBuf_of_busy {r : Reg} {v : Word} {s t : State} (hb : s.busy = true)
    (h : writeReg r v s = .next t) : s.SameBuf t := by
  rcases writeReg_cases h with
    ⟨-, rfl⟩ | ⟨-, rfl⟩ | ⟨-, -, rfl⟩ | ⟨idle, -⟩ | ⟨idle, -⟩ | ⟨idle, -⟩
  · exact ⟨rfl, rfl, rfl, rfl, rfl, rfl, rfl, rfl, rfl, rfl, rfl⟩
  · exact ⟨rfl, rfl, rfl, rfl, rfl, rfl, rfl, rfl, rfl, rfl, rfl⟩
  · exact ⟨rfl, rfl, rfl, rfl, rfl, rfl, rfl, rfl, rfl, rfl, rfl⟩
  all_goals exact nomatch hb.symm.trans idle

/-! ### The error clauses -/

/-- The invariant's clauses on ERR and ERRCODE (R33, R140). -/
def State.RecordLegal (s : State) : Prop :=
  (s.err = false → s.errcode = 0#4) ∧ (s.err = true → 1 ≤ s.errcode.toNat ∧ s.errcode.toNat ≤ 4)

theorem ErrCode.code_legal {c : ErrCode} (hc : c ≠ .noError) : 1 ≤ c.code.toNat ∧ c.code.toNat ≤ 4 := by
  cases c with
  | noError => exact absurd rfl hc
  | illegal | busy | range | busErr => decide

theorem State.RecordLegal.raise {s : State} {c : ErrCode} (h : s.RecordLegal) (hc : c ≠ .noError) :
    (s.raise c).RecordLegal := by
  refine ⟨nofun, fun _ => ?_⟩
  cases he : s.err with
  | true => rw [State.raise_of_err c he]; exact h.2 he
  | false =>
    rw [State.raise_of_no_err c he]
    exact ErrCode.code_legal hc

theorem State.RecordLegal.writeStatus {s : State} (h : s.RecordLegal) (v : Word) : (s.writeStatus v).RecordLegal := by
  rw [State.writeStatus_eq]
  cases hv : v.getLsbD 4 with
  | true => exact ⟨fun _ => rfl, nofun⟩
  | false => exact h

/-! ### States that meet the invariant -/

theorem State.Inv.recordLegal {s : State} (h : s.Inv) : s.RecordLegal := ⟨h.errcodeZero, h.errcodeLegal⟩

/-- With BUSY = 0 the engine's clauses say nothing. -/
theorem State.Inv.of_idle {s : State} (idle : s.busy = false) (record : s.RecordLegal) (wf : s.mem.wf = true) :
    s.Inv where
  errcodeZero := record.1
  errcodeLegal := record.2
  engSrcEq busy := nomatch busy.symm.trans idle
  engLenEq busy := nomatch busy.symm.trans idle
  engAcc0Eq busy := nomatch busy.symm.trans idle
  engTail0Eq busy := nomatch busy.symm.trans idle
  engLenPos busy := nomatch busy.symm.trans idle
  engBytesLe busy := nomatch busy.symm.trans idle
  rangeLegal busy := nomatch busy.symm.trans idle
  memWf := wf

/-- The engine's clauses speak of the BUF in flight alone. -/
theorem State.Inv.of_sameBuf {s t : State} (h : s.Inv) (same : s.SameBuf t) (record : t.RecordLegal)
    (wf : t.mem.wf = true) : t.Inv where
  errcodeZero := record.1
  errcodeLegal := record.2
  engSrcEq busy := by rw [same.engSrc, same.src]; exact h.engSrcEq (same.busy ▸ busy)
  engLenEq busy := by rw [same.engLen, same.len]; exact h.engLenEq (same.busy ▸ busy)
  engAcc0Eq busy := by rw [same.engAcc0, same.acc]; exact h.engAcc0Eq (same.busy ▸ busy)
  engTail0Eq busy := by rw [same.engTail0, same.tail]; exact h.engTail0Eq (same.busy ▸ busy)
  engLenPos busy := by rw [same.engLen]; exact h.engLenPos (same.busy ▸ busy)
  engBytesLe busy := by rw [same.engBytes, same.engLen]; exact h.engBytesLe (same.busy ▸ busy)
  rangeLegal busy := by rw [same.engSrc, same.engLen]; exact h.rangeLegal (same.busy ▸ busy)
  memWf := wf

/-- BUF's start latches a legal, non-empty range (R125, R126). -/
theorem State.Inv.startEngine {s : State} (h : s.Inv) (legal : s.rangeBad = false) (pos : s.len ≠ 0#32) :
    s.startEngine.Inv where
  errcodeZero := h.errcodeZero
  errcodeLegal := h.errcodeLegal
  engSrcEq _ := rfl
  engLenEq _ := rfl
  engAcc0Eq _ := rfl
  engTail0Eq _ := rfl
  engLenPos _ := Nat.pos_of_ne_zero fun e => pos (BitVec.eq_of_toNat_eq e)
  engBytesLe _ := Nat.zero_le _
  rangeLegal _ := by
    have := mt s.rangeBad_iff.mpr (by simp [legal])
    simp only [State.startEngine_engSrc, State.startEngine_engLen]
    omega
  memWf := h.memWf

/-- A byte taken while bytes remain keeps their count within the length (R127). -/
theorem State.Inv.pushByte {s : State} (h : s.Inv) (a : Word) (b : Byte)
    (remains : s.engBytes.length < s.engLen.toNat) : ((s.noteRead a).pushByte b).Inv where
  errcodeZero := h.errcodeZero
  errcodeLegal := h.errcodeLegal
  engSrcEq := h.engSrcEq
  engLenEq := h.engLenEq
  engAcc0Eq := h.engAcc0Eq
  engTail0Eq := h.engTail0Eq
  engLenPos := h.engLenPos
  engBytesLe _ := by
    simp only [State.pushByte_engBytes, State.noteRead_engBytes, List.length_append, List.length_singleton]
    exact remains
  rangeLegal := h.rangeLegal
  memWf := h.memWf

/-- The turns, the operations pending and the port's record are no part of the invariant. -/
theorem State.Inv.served {s : State} (h : s.Inv) (host : List HostOp) (sched : List Turn) (rs : List Response) :
    State.Inv { s with host := host, sched := sched, responses := rs } :=
  h.of_sameBuf (s.sameBuf_served host sched rs) h.recordLegal h.memWf

/-! ### Each agent's step -/

theorem engineStep_inv {s : State} (h : s.Inv) : (engineStep s).Inv := by
  rcases engineStep_cases s with ⟨e, -⟩ | ⟨b, e, -, remains, -⟩ | ⟨e, -⟩ | ⟨e, -⟩
  · rw [e]; exact h
  · rw [e]; exact h.pushByte _ b remains
  · rw [e]; exact .of_idle rfl (h.recordLegal.raise (c := .busErr) (by decide)) h.memWf
  · rw [e]; exact .of_idle rfl h.recordLegal h.memWf

theorem exec_inv {i : Instr} {s t : State} (hb : s.busy = false) (h : s.Inv) (he : exec i s = .next t) : t.Inv := by
  rcases exec_idle_cases hb he with
    ⟨-, rfl⟩ | ⟨-, rfl⟩ | ⟨b0, b1, -, rfl⟩ | ⟨b0, -, rfl⟩ | ⟨-, -, rfl⟩ | ⟨-, -, -, rfl⟩ | ⟨-, legal, pos, rfl⟩
  · exact h
  · exact .of_idle hb h.recordLegal h.memWf
  · exact .of_idle hb h.recordLegal h.memWf
  · exact .of_idle hb h.recordLegal h.memWf
  · exact .of_idle hb (h.recordLegal.raise (by decide)) h.memWf
  · exact h
  · exact h.startEngine legal pos

theorem writeReg_inv {r : Reg} {v : Word} {s t : State} (h : s.Inv) (hw : writeReg r v s = .next t) : t.Inv := by
  rcases writeReg_cases hw with
    ⟨-, rfl⟩ | ⟨-, rfl⟩ | ⟨-, busy, rfl⟩ | ⟨idle, ⟨-, rfl⟩ | ⟨-, rfl⟩ | ⟨-, rfl⟩⟩ | ⟨idle, -, -, rfl⟩ |
    ⟨idle, -, i, -, he⟩
  · exact h
  · exact h.of_sameBuf ⟨rfl, rfl, rfl, rfl, rfl, rfl, rfl, rfl, rfl, rfl, rfl⟩ (h.recordLegal.writeStatus v) h.memWf
  · exact h.of_sameBuf (writeReg_sameBuf_of_busy busy hw) (h.recordLegal.raise (by decide)) h.memWf
  · exact .of_idle idle h.recordLegal h.memWf
  · exact .of_idle idle h.recordLegal h.memWf
  · exact .of_idle idle h.recordLegal h.memWf
  · exact .of_idle idle (h.recordLegal.raise (by decide)) h.memWf
  · exact exec_inv idle h he

theorem hostStep_inv {op : HostOp} {s t : State} (h : s.Inv) (hs : hostStep op s = .next t) : t.Inv := by
  have wf := hostStep_mem_wf hs h.memWf fun r v hw => (writeReg_samePlatform hw).mem
  rcases hostStep_cases hs with ⟨r, v, -, hw⟩ | ⟨-, e⟩
  · exact writeReg_inv (s := s.respond .done) (h.served _ _ _) hw
  · rw [e] at wf ⊢
    exact h.of_sameBuf ⟨rfl, rfl, rfl, rfl, rfl, rfl, rfl, rfl, rfl, rfl, rfl⟩ h.recordLegal wf

/-- Settles O57, agent by agent; what a host's turn takes off the pending operations is no part of the invariant. -/
theorem stepKeepsInvariant : Obligations.StepKeepsInvariant := by
  unfold Obligations.StepKeepsInvariant
  intro s t h hs
  have taken : s.popTurn.Inv := h.served _ _ _
  rcases step_cases hs with ⟨-, rfl⟩ | ⟨-, rfl⟩ | ⟨-, -, rfl⟩ | ⟨op, rest, -, -, hop⟩
  · exact .of_idle rfl ⟨fun _ => rfl, nofun⟩ h.memWf
  · exact engineStep_inv taken
  · exact taken
  · exact hostStep_inv (taken.served _ _ _) hop

/-- Settles O56: BUSY, ERR and ERRCODE are 0 and no memory is listed. -/
theorem invariantHoldsAtReset : Obligations.InvariantHoldsAtReset := by
  unfold Obligations.InvariantHoldsAtReset
  exact fun p => .of_idle rfl ⟨fun _ => rfl, nofun⟩ rfl

end Sys2Proof.Machine
end

section
/-! PROOFS. What a host reads, and the writes and polls that touch one register at most (10_state.md R21 to R28, R35;
30_encoding.md R78). -/

namespace Sys2Proof.Machine

/-! ### The reads -/

theorem append_toNat {m n : Nat} (hi : BitVec m) (lo : BitVec n) : (hi ++ lo).toNat = hi.toNat * 2 ^ n + lo.toNat := by
  rw [BitVec.toNat_append, ← Nat.shiftLeft_add_eq_or_of_lt lo.isLt, Nat.shiftLeft_eq]

/-- STATUS as a number (R28). -/
theorem State.statusWord_eq (s : State) : s.statusWord = BitVec.ofNat 32
    (s.busy.toNat + 2 * s.ovf.toNat + 4 * s.tail.toNat + 8 * s.tailv.toNat + 16 * s.err.toNat +
      256 * s.errcode.toNat) := by
  have code := s.errcode.isLt
  have bit (b : Bool) : b.toNat ≤ 1 := Bool.toNat_le b
  have h0 := bit s.busy; have h1 := bit s.ovf; have h2 := bit s.tail; have h3 := bit s.tailv; have h4 := bit s.err
  apply BitVec.eq_of_toNat_eq
  simp only [State.statusWord, append_toNat, BitVec.toNat_ofBool, BitVec.toNat_ofNat]
  omega

/-- RESULT as a number (R25, R106). -/
theorem State.readReg_result_eq (s : State) :
    s.readReg .result = BitVec.ofNat 32 (0xFFFF - (fold s.acc % 65536).toNat) := by
  apply BitVec.eq_of_toNat_eq
  rw [State.readReg_result_toNat, result_toNat, BitVec.toNat_ofNat]
  omega

/-- Settles O9: ID, STATUS and RESULT by number, the other registers as they stand. -/
theorem hostReadsReturnRegisters : Obligations.HostReadsReturnRegisters := by
  unfold Obligations.HostReadsReturnRegisters
  intro s r
  rw [step_offer_hostRD]
  cases r with
  | id => rw [State.readReg, idWord_eq]; rfl
  | status => rw [State.readReg, State.statusWord_eq]; rfl
  | result => rw [State.readReg_result_eq]; rfl
  | cmd | acc | src | len | rsvd => rfl

/-! ### The writes and polls -/

section idle

variable {s : State} (hb : s.busy = false) (v : Word)
include hb

theorem writeReg_acc_idle : writeReg .acc v s = .next { s with acc := v } := congrArg _ (State.unlessBusy_idle hb)

theorem writeReg_src_idle : writeReg .src v s = .next { s with src := v } := congrArg _ (State.unlessBusy_idle hb)

theorem writeReg_len_idle : writeReg .len v s = .next { s with len := v } := congrArg _ (State.unlessBusy_idle hb)

end idle

/-- Settles O11: the interlock lets an idle write through. -/
theorem idleRegisterWritesStore : Obligations.IdleRegisterWritesStore := by
  unfold Obligations.IdleRegisterWritesStore
  intro s v idle
  simp only [step_offer_hostWR]
  exact ⟨writeReg_acc_idle (s := s.respond .done) idle v, writeReg_src_idle (s := s.respond .done) idle v,
    writeReg_len_idle (s := s.respond .done) idle v⟩

/-- Settles O12, by `writeReg_readOnly`. -/
theorem readOnlyWritesIgnored : Obligations.ReadOnlyWritesIgnored := by
  unfold Obligations.ReadOnlyWritesIgnored
  intro s v r hr
  rw [step_offer_hostWR, writeReg_readOnly (by simpa using hr)]
  rfl

/-- Settles O16: the two branches of a POLL's step. -/
theorem pollRepeatsUntilMet : Obligations.PollRepeatsUntilMet := by
  unfold Obligations.PollRepeatsUntilMet
  intro s r mask v
  refine ⟨fun met => ?_, fun unmet => ?_⟩
  · rw [step_offer, hostStep, if_pos met]
    rfl
  · rw [step_offer, hostStep, if_neg unmet]
    rfl

/-! ### The write of CMD -/

theorem issue_legal {w : Word} {i : Instr} (s : State) (h : decode w = some i) : issue w s = exec i s := by
  rw [issue, h]

/-- A host's turn with nothing pending. -/
theorem step_of_host_nil {s : State} (hn : s.nextTurn = .host) (hh : s.host = []) : step s = .next s.popTurn := by
  rw [step_of_host hn, hostTurn, State.popTurn_host, hh]

/-- A host's turn with an operation pending. -/
theorem step_of_host_cons {s : State} {op : HostOp} {rest : List HostOp} (hn : s.nextTurn = .host)
    (hh : s.host = op :: rest) : step s = hostStep op { s.popTurn with host := rest } := by
  rw [step_of_host hn, hostTurn, State.popTurn_host, hh]

/-- Settles O7: `base + 4` is CMD's address, and a CMD write is the issue of its word. -/
theorem stepRunsDecodedCommand : Obligations.StepRunsDecodedCommand := by
  unfold Obligations.StepRunsDecodedCommand
  refine ⟨fun s rest w i hn hh legal => ?_, fun s nbits w i legal => ?_⟩
  · rw [step_of_host_cons hn hh]
    refine (hostStep_write_reg { s.popTurn with host := rest } .cmd w).trans ?_
    exact issue_legal _ legal
  · rw [State.withFetchWord, step_offer_hostWR]
    exact issue_legal _ legal

/-! ### Every state has a next step -/

theorem writeReg_total (r : Reg) (v : Word) (s : State) : ∃ t, writeReg r v s = .next t := by
  cases r with
  | cmd => exact issue_total v s
  | id | status | acc | result | src | len | rsvd => exact ⟨_, rfl⟩

theorem hostStep_total (op : HostOp) (s : State) : ∃ t, hostStep op s = .next t := by
  cases op with
  | read w a => simp only [hostStep]; split <;> exact ⟨_, rfl⟩
  | poll r mask v => simp only [hostStep]; split <;> exact ⟨_, rfl⟩
  | store a b => simp only [hostStep]; split <;> exact ⟨_, rfl⟩
  | write w a v =>
    simp only [hostStep]
    split
    · exact writeReg_total _ v _
    · exact ⟨_, rfl⟩
    · exact ⟨_, rfl⟩

/-- Settles O58, agent by agent. -/
theorem everyStateHasANextStep : Obligations.EveryStateHasANextStep := by
  unfold Obligations.EveryStateHasANextStep
  intro s
  cases hn : s.nextTurn with
  | reset => exact ⟨_, step_of_reset hn⟩
  | engine => exact ⟨_, step_of_engine hn⟩
  | host =>
    cases hh : s.host with
    | nil => exact ⟨_, step_of_host_nil hn hh⟩
    | cons op rest => rw [step_of_host_cons hn hh]; exact hostStep_total op _

end Sys2Proof.Machine
end

section
/-! PROOFS. What a host's operation does to memory and to the race log (20_memory.md R57, R60; log 11). -/

namespace Sys2Proof.Machine

/-! ### Which bytes an operation writes -/

/-- The host's operation writes the byte at `x`: its own byte store, or a write that touches it outside the window. -/
def HostOp.Writes (s : State) (x : Nat) : HostOp → Prop
  | .store a _ => a.toNat = x
  | .write w a _ => ∃ y ∈ touched w a, y.toNat = x ∧ s.inWindow y = false
  | .read _ _ => False
  | .poll _ _ _ => False

/-- `forgetOutside` leaves the bytes its write does not write. -/
theorem State.forgetOutside_read_unwritten {s : State} {w : Width} {a v : Word} {x : Nat}
    (h : ¬ (HostOp.write w a v).Writes s x) : (s.forgetOutside w a).mem.read x = s.mem.read x :=
  s.forgetOutside_read w a x fun y hy out e => h ⟨y, hy, e, out⟩

/-- A host's operation leaves the bytes it does not write. -/
theorem hostStep_mem_read {op : HostOp} {s t : State} {x : Nat} (hs : hostStep op s = .next t) (h : ¬ op.Writes s x) :
    t.mem.read x = s.mem.read x := by
  cases op with
  | read w a => simp only [hostStep] at hs; split at hs <;> cases hs <;> rfl
  | poll r mask v => simp only [hostStep] at hs; split at hs <;> cases hs <;> rfl
  | store a b =>
    simp only [hostStep] at hs
    split at hs <;> cases hs
    · rfl
    · exact s.mem.read_put_other a.toNat x (some b) fun e => h e.symm
  | write w a v =>
    simp only [hostStep] at hs
    split at hs
    · rw [(writeReg_samePlatform hs).mem]; rfl
    · cases hs; exact State.forgetOutside_read_unwritten h
    · cases hs; exact State.forgetOutside_read_unwritten h

/-! ### What the race log then lists -/

theorem State.mem_storeByte_raceLog {s : State} {a : Word} {b : Option Byte} {c : Nat × Option Byte}
    (h : c ∈ (s.storeByte a b).raceLog) : c ∈ s.raceLog ∨ c.1 = a.toNat := by
  rw [State.storeByte_raceLog] at h
  split at h
  · rcases List.mem_append.mp h with h | h
    · exact .inl h
    · simp only [List.mem_cons, List.not_mem_nil, or_false] at h
      rcases h with rfl | rfl <;> exact .inr rfl
  · exact .inl h

theorem State.mem_foldl_forget_raceLog {l : List Word} {c : Nat × Option Byte} {s : State}
    (h : c ∈ (l.foldl (fun t x => t.storeByte x none) s).raceLog) : c ∈ s.raceLog ∨ ∃ y ∈ l, y.toNat = c.1 := by
  induction l generalizing s with
  | nil => exact .inl h
  | cons x l ih =>
    rcases ih h with h | ⟨y, hy, e⟩
    · rcases State.mem_storeByte_raceLog h with h | e
      · exact .inl h
      · exact .inr ⟨x, List.mem_cons_self, e.symm⟩
    · exact .inr ⟨y, List.mem_cons_of_mem _ hy, e⟩

theorem State.mem_forgetOutside_raceLog {s : State} {w : Width} {a v : Word} {c : Nat × Option Byte}
    (h : c ∈ (s.forgetOutside w a).raceLog) : c ∈ s.raceLog ∨ (HostOp.write w a v).Writes s c.1 := by
  refine (State.mem_foldl_forget_raceLog h).imp_right ?_
  rintro ⟨y, hy, e⟩
  obtain ⟨touched, out⟩ := List.mem_filter.mp hy
  exact ⟨y, touched, e, by simpa using out⟩

/-- A register write races nothing: it keeps the race log, or starts a BUF with an empty one. -/
theorem writeReg_raceLog_subset {r : Reg} {v : Word} {s t : State} (h : writeReg r v s = .next t) :
    t.raceLog ⊆ s.raceLog := by
  rcases writeReg_cases h with
    ⟨-, rfl⟩ | ⟨-, rfl⟩ | ⟨-, -, rfl⟩ | ⟨-, ⟨-, rfl⟩ | ⟨-, rfl⟩ | ⟨-, rfl⟩⟩ | ⟨-, -, -, rfl⟩ | ⟨idle, -, i, -, he⟩
  case inr.inr.inr.inr.inr =>
    rcases exec_idle_cases idle he with
      ⟨-, rfl⟩ | ⟨-, rfl⟩ | ⟨b0, b1, -, rfl⟩ | ⟨b0, -, rfl⟩ | ⟨-, -, rfl⟩ | ⟨-, -, -, rfl⟩ | ⟨-, -, -, rfl⟩
    case inr.inr.inr.inr.inr.inr => exact List.nil_subset _
    all_goals exact List.Subset.refl _
  all_goals exact List.Subset.refl _

/-- A host's operation races only bytes it writes. -/
theorem hostStep_raceLog {op : HostOp} {s t : State} (hs : hostStep op s = .next t) {c : Nat × Option Byte}
    (h : c ∈ t.raceLog) : c ∈ s.raceLog ∨ op.Writes s c.1 := by
  cases op with
  | read w a => simp only [hostStep] at hs; split at hs <;> cases hs <;> exact .inl h
  | poll r mask v => simp only [hostStep] at hs; split at hs <;> cases hs <;> exact .inl h
  | store a b =>
    simp only [hostStep] at hs
    split at hs <;> cases hs
    · exact .inl h
    · exact (State.mem_storeByte_raceLog h).imp_right Eq.symm
  | write w a v =>
    simp only [hostStep] at hs
    split at hs
    · exact .inl (writeReg_raceLog_subset hs h)
    · cases hs; exact State.mem_forgetOutside_raceLog h
    · cases hs; exact State.mem_forgetOutside_raceLog h

/-! ### The statements -/

theorem engineStep_mem (s : State) : (engineStep s).mem = s.mem := by
  rcases engineStep_cases s with ⟨e, -⟩ | ⟨b, e, -⟩ | ⟨e, -⟩ | ⟨e, -⟩ <;> rw [e] <;> rfl

/-- Settles O54: reset and the engine keep memory, and a host's operation writes the bytes it is said to. -/
theorem systemMemoryChangedOnlyByHostStores : Obligations.SystemMemoryChangedOnlyByHostStores := by
  unfold Obligations.SystemMemoryChangedOnlyByHostStores
  intro s t a hs changed
  rcases step_cases hs with ⟨-, rfl⟩ | ⟨-, rfl⟩ | ⟨-, -, rfl⟩ | ⟨op, rest, hn, hh, hop⟩
  · exact absurd rfl changed
  · exact absurd (congrArg (Memory.read · a) (engineStep_mem _)) changed
  · exact absurd rfl changed
  · refine ⟨hn, op, by rw [hh]; rfl, ?_⟩
    have writes := not_not.mp (mt (hostStep_mem_read hop) changed)
    cases op with
    | store x b => exact .inl ⟨x, b, rfl, writes⟩
    | write w x v => exact .inr ⟨w, x, v, rfl, writes⟩
    | read w x => exact writes.elim
    | poll r mask v => exact writes.elim

/-- A host's byte store outside the window. -/
theorem step_offer_store {s : State} {a : Word} (b : Byte) (outside : s.inWindow a = false) :
    step (s.offer (.store a b)) = .next (s.storeByte a (some b)) := by
  simp [step_offer, hostStep, outside]

/-- Settles O55, by what a written memory reads. -/
theorem byteStoreWritesOneByte : Obligations.ByteStoreWritesOneByte := by
  unfold Obligations.ByteStoreWritesOneByte
  intro s x b out
  exact ⟨_, step_offer_store b out, s.mem.read_write_same _ b, fun a ne => s.mem.read_write_other _ _ _ ne, rfl⟩

/-- Settles O15: such an access selects no register, since a register's address is in the window, so it is refused. -/
theorem accessesTouchingWindowRefused : Obligations.AccessesTouchingWindowRefused := by
  unfold Obligations.AccessesTouchingWindowRefused
  intro s w a touches out
  have refused : s.select w a = .refused := by
    refine State.select_refused touches ?_
    rintro ⟨r, hr⟩
    obtain ⟨-, rfl⟩ := State.select_reg hr
    exact nomatch out.symm.trans (Reg.addr_window s r).1
  refine ⟨?_, fun v => ⟨(s.forgetOutside w a).respond .busError, ?_, ?_, ?_, ?_⟩⟩
  · rw [step_offer, hostStep_read_refused refused]
    rfl
  · rw [step_offer, hostStep_write_refused v refused]
  · exact congrArg (State.respond .busError) (s.forgetOutside_eq w a)
  · exact fun wf y hy outside => s.forgetOutside_none w a y wf hy outside
  · exact fun x spared => s.forgetOutside_read w a x spared

end Sys2Proof.Machine
end

section
/-! PROOFS. What each register and flag can do over every step (10_state.md R24 to R32; 20_memory.md R53). -/

namespace Sys2Proof.Machine

/-! ### TAILV -/

theorem exec_tailv_iff {i : Instr} {s t : State} (hb : s.busy = false) (h : exec i s = .next t) :
    t.tailv = true ↔
      (s.tail = true ∧ ((∃ b0 b1, i = .add2 b0 b1) ∨ ∃ b0, i = .add1 b0)) ∨ (s.tailv = true ∧ i ≠ .clear) := by
  rcases exec_idle_cases hb h with
    ⟨rfl, rfl⟩ | ⟨rfl, rfl⟩ | ⟨b0, b1, rfl, rfl⟩ | ⟨b0, rfl, rfl⟩ | ⟨rfl, -, rfl⟩ | ⟨rfl, -, -, rfl⟩ |
    ⟨rfl, -, -, rfl⟩ <;> simp [or_comm]

theorem writeReg_tailv_iff {r : Reg} {v : Word} {s t : State} (hr : r ≠ .cmd) (h : writeReg r v s = .next t) :
    t.tailv = true ↔ s.tailv = true ∧ ¬ (r = .status ∧ v.getLsbD 3 = true) := by
  rcases writeReg_flags hr h with ⟨rfl, rfl⟩ | ⟨hs, -, -, -, tailv⟩
  · simp [clearsTailv]
  · simp [tailv, hs]

/-- Settles O24, by what the step is to CSUM. -/
theorem tailvSetAndClearedOnlyAsStated : Obligations.TailvSetAndClearedOnlyAsStated := by
  unfold Obligations.TailvSetAndClearedOnlyAsStated
  intro s t h
  have effect := step_effect h
  simp only [State.hostIssues_iff, State.hostWrites_status_iff, State.commits_iff, State.nextTurn_reset_iff]
  generalize s.event = e at effect ⊢
  cases e with
  | reset => cases effect; simp
  | commit => cases effect; simp [State.commit_tailv_iff, -State.commit_tailv]
  | abort => cases effect; simp
  | issue i =>
    obtain ⟨hb, he⟩ := effect
    have tailv := exec_tailv_iff (s := s.served) hb he
    simpa using tailv
  | write r v =>
    obtain ⟨hr, hw⟩ := effect
    have tailv := writeReg_tailv_iff hr hw
    simpa using tailv
  | other => simp [effect.tailv]

/-! ### ACC, SRC and LEN -/

/-- What a command gives ACC, by number. -/
theorem exec_acc {i : Instr} {s t : State} (hb : s.busy = false) (h : exec i s = .next t) :
    t.acc = s.acc ∨ (i = .clear ∧ t.acc = 0#32) ∨
    (∃ b0 b1, i = .add2 b0 b1 ∧
      t.acc = BitVec.ofNat 32 (s.acc.toNat + (wordOf s.params.hostEndian b0 b1).toNat)) ∨
    (∃ b0, i = .add1 b0 ∧ t.acc = BitVec.ofNat 32 (s.acc.toNat + b0.toNat)) := by
  rcases exec_idle_cases hb h with
    ⟨-, rfl⟩ | ⟨rfl, rfl⟩ | ⟨b0, b1, rfl, rfl⟩ | ⟨b0, rfl, rfl⟩ | ⟨-, -, rfl⟩ | ⟨-, -, -, rfl⟩ | ⟨-, -, -, rfl⟩
  · exact .inl rfl
  · exact .inr (.inl ⟨rfl, rfl⟩)
  · exact .inr (.inr (.inl ⟨b0, b1, rfl, accAdd_fst _ _⟩))
  · exact .inr (.inr (.inr ⟨b0, rfl, by rw [← tailOf_toNat b0]; exact accAdd_fst _ _⟩))
  · exact .inl rfl
  · exact .inl rfl
  · exact .inl rfl

/-- What a write of a register but CMD gives the operand registers. -/
theorem writeReg_operands {r : Reg} {v : Word} {s t : State} (hr : r ≠ .cmd) (h : writeReg r v s = .next t) :
    (t.acc = s.acc ∨ s.busy = false ∧ r = .acc ∧ t.acc = v) ∧
    (t.src = s.src ∨ s.busy = false ∧ r = .src ∧ t.src = v) ∧
    (t.len = s.len ∨ s.busy = false ∧ r = .len ∧ t.len = v) := by
  rcases writeReg_cases h with
    ⟨-, rfl⟩ | ⟨-, rfl⟩ | ⟨-, -, rfl⟩ | ⟨idle, ⟨rfl, rfl⟩ | ⟨rfl, rfl⟩ | ⟨rfl, rfl⟩⟩ | ⟨-, rfl, -⟩ | ⟨-, rfl, -⟩
  · exact ⟨.inl rfl, .inl rfl, .inl rfl⟩
  · exact ⟨.inl rfl, .inl rfl, .inl rfl⟩
  · exact ⟨.inl rfl, .inl rfl, .inl rfl⟩
  · exact ⟨.inr ⟨idle, rfl, rfl⟩, .inl rfl, .inl rfl⟩
  · exact ⟨.inl rfl, .inr ⟨idle, rfl, rfl⟩, .inl rfl⟩
  · exact ⟨.inl rfl, .inl rfl, .inr ⟨idle, rfl, rfl⟩⟩
  · exact absurd rfl hr
  · exact absurd rfl hr

/-- Settles O60, by what the step is to CSUM. -/
theorem accSrcLenChangedOnlyAsStated : Obligations.AccSrcLenChangedOnlyAsStated := by
  unfold Obligations.AccSrcLenChangedOnlyAsStated
  intro s t h
  have effect := step_effect h
  have writes {r : Reg} (hr : r ≠ .cmd) (v : Word) := State.hostWrites_iff (s := s) (v := v) hr
  simp only [State.hostIssues_iff, State.commits_iff, State.nextTurn_reset_iff, ne_eq, ← or_iff_not_imp_left,
    writes (r := .acc) (by decide), writes (r := .src) (by decide), writes (r := .len) (by decide)]
  generalize s.event = e at effect ⊢
  cases e with
  | reset => cases effect; simp
  | commit => cases effect; simp
  | abort => cases effect; simp
  | issue i =>
    obtain ⟨hb, he⟩ := effect
    obtain ⟨src, len⟩ := exec_operands he
    have acc := exec_acc (s := s.served) hb he
    exact ⟨by simpa using acc, .inl src, .inl len⟩
  | write r v =>
    obtain ⟨hr, hw⟩ := effect
    obtain ⟨acc, src, len⟩ := writeReg_operands hr hw
    refine ⟨acc.imp_right ?_, src.imp_right ?_, len.imp_right ?_⟩
    · exact fun ⟨idle, reg, value⟩ => .inl ⟨idle, v, reg ▸ rfl, value⟩
    · exact fun ⟨idle, reg, value⟩ => .inl ⟨idle, v, reg ▸ rfl, value⟩
    · exact fun ⟨idle, reg, value⟩ => .inl ⟨idle, v, reg ▸ rfl, value⟩
  | other => exact ⟨.inl effect.acc, .inl effect.src, .inl effect.len⟩

/-! ### The configuration -/

theorem engineStep_params (s : State) : (engineStep s).params = s.params := by
  rcases engineStep_cases s with ⟨e, -⟩ | ⟨b, e, -⟩ | ⟨e, -⟩ | ⟨e, -⟩ <;> rw [e] <;> rfl

theorem hostStep_params {op : HostOp} {s t : State} (h : hostStep op s = .next t) : t.params = s.params := by
  rcases hostStep_cases h with ⟨r, v, -, hw⟩ | ⟨-, e⟩
  · exact (writeReg_samePlatform hw).params
  · rw [e]

/-- Settles O53, agent by agent. -/
theorem configurationNeverChanges : Obligations.ConfigurationNeverChanges := by
  unfold Obligations.ConfigurationNeverChanges
  intro s t h
  rcases step_cases h with ⟨-, rfl⟩ | ⟨-, rfl⟩ | ⟨-, -, rfl⟩ | ⟨op, rest, -, -, hop⟩
  · rfl
  · exact engineStep_params s.popTurn
  · rfl
  · exact hostStep_params (s := { s.popTurn with host := rest }) hop

/-! ### The BUF in flight -/

/-- A host's operation keeps a BUF in flight as it is (R126). -/
theorem hostStep_sameBuf {op : HostOp} {s t : State} (hb : s.busy = true) (h : hostStep op s = .next t) :
    s.SameBuf t := by
  rcases hostStep_cases h with ⟨r, v, -, hw⟩ | ⟨-, e⟩
  · exact (s.sameBuf_served _ _ _).trans (writeReg_sameBuf_of_busy (s := s.respond .done) hb hw)
  · rw [e]
    exact ⟨rfl, rfl, rfl, rfl, rfl, rfl, rfl, rfl, rfl, rfl, rfl⟩

/-- A host's turn keeps a BUF in flight as it is. -/
theorem step_sameBuf_of_host {s t : State} (hb : s.busy = true) (hn : s.nextTurn = .host) (h : step s = .next t) :
    s.SameBuf t := by
  rcases step_cases h with ⟨other, -⟩ | ⟨other, -⟩ | ⟨-, -, rfl⟩ | ⟨op, rest, -, -, hop⟩
  · exact nomatch hn.symm.trans other
  · exact nomatch hn.symm.trans other
  · exact ⟨rfl, rfl, rfl, rfl, rfl, rfl, rfl, rfl, rfl, rfl, rfl⟩
  · exact (s.sameBuf_served rest s.sched.tail s.responses).trans (hostStep_sameBuf hb hop)

/-- During a BUF that goes on, OVF and TAILV change only by a STATUS write. -/
theorem step_flags_of_busy {s t : State} (h : step s = .next t) (hb : s.busy = true) (ht : t.busy = true) :
    (t.ovf = s.ovf ∧ t.tailv = s.tailv) ∨ ∃ v, s.hostWrites .status v ∧
      t.ovf = (s.ovf && !v.getLsbD 1) ∧ t.tailv = (s.tailv && !v.getLsbD 3) := by
  have effect := step_effect h
  simp only [State.hostWrites_status_iff]
  generalize s.event = e at effect ⊢
  cases e with
  | reset => cases effect; exact nomatch ht
  | commit => cases effect; exact nomatch ht
  | abort => cases effect; exact nomatch ht
  | issue i => exact nomatch hb.symm.trans effect.1
  | write r v =>
    obtain ⟨hr, hw⟩ := effect
    rcases writeReg_flags hr hw with ⟨rfl, rfl⟩ | ⟨-, -, ovf, -, tailv⟩
    · exact .inr ⟨v, rfl, rfl, rfl⟩
    · exact .inl ⟨ovf, tailv⟩
  | other => exact .inl ⟨effect.ovf, effect.tailv⟩

/-- Settles O33: a host's turn keeps the BUF as it is, an engine's that does not end it adds at most a byte, and a reset
ends it. -/
theorem bufInFlightFreezesOperands : Obligations.BufInFlightFreezesOperands := by
  unfold Obligations.BufInFlightFreezesOperands
  intro s t h hb
  refine ⟨fun ht => ?_, fun hn => ?_⟩
  · have flags := step_flags_of_busy h hb ht
    cases hn : s.nextTurn with
    | reset => rw [step_of_reset hn] at h; cases h; exact nomatch ht
    | host =>
      have same := step_sameBuf_of_host hb hn h
      exact ⟨same.acc, same.src, same.len, same.tail, same.engSrc, same.engLen, same.engAcc0, same.engTail0, flags,
        .inl same.engBytes⟩
    | engine =>
      rw [step_of_engine hn] at h
      cases h
      rcases engineStep_cases s.popTurn with ⟨e, -⟩ | ⟨b, e, -⟩ | ⟨e, -⟩ | ⟨e, -⟩
      · rw [e] at flags ⊢
        exact ⟨rfl, rfl, rfl, rfl, rfl, rfl, rfl, rfl, flags, .inl rfl⟩
      · rw [e] at flags ⊢
        exact ⟨rfl, rfl, rfl, rfl, rfl, rfl, rfl, rfl, flags, .inr ⟨b, rfl⟩⟩
      · rw [e] at ht; exact nomatch ht
      · rw [e] at ht; exact nomatch ht
  · have same := step_sameBuf_of_host hb hn h
    exact ⟨same.busy.trans hb, same.engBytes⟩

end Sys2Proof.Machine
end

section
/-! PROOFS. The engine's state while BUSY = 0 is read by no rule (10_state.md R36; 93_implementation_defined.md I10). -/

namespace Sys2Proof.Machine

/-- The state `s` with the engine's state of `e`. -/
def State.graft (e s : State) : State :=
  { s with
    engSrc := e.engSrc
    engLen := e.engLen
    engAcc0 := e.engAcc0
    engTail0 := e.engTail0
    engBytes := e.engBytes
    raceLog := e.raceLog }

/-- `t'` differs from `t` in the engine's state alone, and not at all where a BUF is in flight. -/
def State.AgreesWhileIdle (t t' : State) : Prop := t' = State.graft t' t ∧ (t.busy = true → t' = t)

theorem State.AgreesWhileIdle.refl (t : State) : t.AgreesWhileIdle t := ⟨rfl, fun _ => rfl⟩

theorem State.AgreesWhileIdle.graft (e : State) {t : State} (idle : t.busy = false) :
    t.AgreesWhileIdle (State.graft e t) :=
  ⟨rfl, fun busy => nomatch idle.symm.trans busy⟩

theorem exec_graft (e : State) {i : Instr} {s t : State} (hb : s.busy = false) (h : exec i s = .next t) :
    ∃ t', exec i (State.graft e s) = .next t' ∧ t.AgreesWhileIdle t' := by
  have hb' : (State.graft e s).busy = false := hb
  cases i with
  | nop =>
    cases (exec_nop_idle hb).symm.trans h
    exact ⟨_, exec_nop_idle hb', .graft e hb⟩
  | clear =>
    cases (exec_clear_idle hb).symm.trans h
    exact ⟨_, exec_clear_idle hb', .graft e hb⟩
  | add2 b0 b1 =>
    cases (exec_add2_idle hb b0 b1).symm.trans h
    exact ⟨_, exec_add2_idle hb' b0 b1, .graft e hb⟩
  | add1 b0 =>
    cases (exec_add1_idle hb b0).symm.trans h
    exact ⟨_, exec_add1_idle hb' b0, .graft e hb⟩
  | buf =>
    cases (exec_buf_idle hb).symm.trans h
    refine ⟨_, exec_buf_idle hb', ?_⟩
    change State.AgreesWhileIdle _ (if s.rangeBad then (State.graft e s).raise .range
      else if s.len = 0#32 then State.graft e s else s.startEngine)
    split
    · exact .graft e hb
    split
    · exact .graft e hb
    · exact .refl _

theorem writeReg_graft (e : State) {r : Reg} {v : Word} {s t : State} (hb : s.busy = false)
    (h : writeReg r v s = .next t) : ∃ t', writeReg r v (State.graft e s) = .next t' ∧ t.AgreesWhileIdle t' := by
  have hb' : (State.graft e s).busy = false := hb
  cases r with
  | id | result | rsvd | status => cases h; exact ⟨_, rfl, .graft e hb⟩
  | acc | src | len =>
    simp only [writeReg, State.unlessBusy_idle hb, State.unlessBusy_idle hb'] at h ⊢
    cases h
    exact ⟨_, rfl, .graft e hb⟩
  | cmd =>
    simp only [writeReg, issue_idle hb, issue_idle hb'] at h ⊢
    cases hd : decode v with
    | none => rw [hd] at h; cases h; exact ⟨_, rfl, .graft e hb⟩
    | some i => rw [hd] at h; exact exec_graft e hb h

theorem State.readReg_graft (e s : State) (r : Reg) : (State.graft e s).readReg r = s.readReg r := by
  cases r <;> rfl

/-- While idle no store races anything. -/
theorem State.foldl_forget_graft (e : State) (l : List Word) {s : State} (hb : s.busy = false) :
    l.foldl (fun t x => t.storeByte x none) (State.graft e s) =
      State.graft e (l.foldl (fun t x => t.storeByte x none) s) := by
  induction l generalizing s with
  | nil => rfl
  | cons x l ih =>
    have store : (State.graft e s).storeByte x none = State.graft e (s.storeByte x none) := by
      simp [State.storeByte, State.graft, hb]
    rw [List.foldl_cons, List.foldl_cons, store]
    exact ih hb

theorem State.forgetOutside_graft (e : State) (w : Width) (a : Word) {s : State} (hb : s.busy = false) :
    (State.graft e s).forgetOutside w a = State.graft e (s.forgetOutside w a) :=
  State.foldl_forget_graft e _ hb

theorem hostStep_graft (e : State) {op : HostOp} {s t : State} (hb : s.busy = false) (h : hostStep op s = .next t) :
    ∃ t', hostStep op (State.graft e s) = .next t' ∧ t.AgreesWhileIdle t' := by
  cases op with
  | read w a =>
    have select : (State.graft e s).select w a = s.select w a := rfl
    simp only [hostStep, select, State.readReg_graft] at h ⊢
    split at h <;> cases h <;> exact ⟨_, rfl, .graft e hb⟩
  | poll r mask v =>
    simp only [hostStep, State.readReg_graft] at h ⊢
    split at h <;> cases h
    · rename_i met; rw [if_pos met]; exact ⟨_, rfl, .graft e hb⟩
    · rename_i unmet; rw [if_neg unmet]; exact ⟨_, rfl, .graft e hb⟩
  | store a b =>
    have window : (State.graft e s).inWindow a = s.inWindow a := rfl
    simp only [hostStep, window] at h ⊢
    split at h <;> cases h
    · rename_i inside; rw [if_pos inside]; exact ⟨_, rfl, .graft e hb⟩
    · rename_i outside; rw [if_neg outside]
      exact ⟨_, rfl, rfl, fun busy => nomatch hb.symm.trans busy⟩
  | write w a v =>
    have select : (State.graft e s).select w a = s.select w a := rfl
    simp only [hostStep, select, State.forgetOutside_graft e w a hb] at h ⊢
    have idle : (s.forgetOutside w a).busy = false := (s.forgetOutside_busy w a).trans hb
    split at h
    · exact writeReg_graft e (s := s.respond .done) hb h
    · cases h; exact ⟨_, rfl, .graft e idle⟩
    · cases h; exact ⟨_, rfl, .graft e idle⟩

/-- Settles O59, agent by agent: an idle engine's turn does nothing, and a reset and an accepted BUF set the engine's
state afresh. -/
theorem idleEngineStateIsNeverRead : Obligations.IdleEngineStateIsNeverRead := by
  unfold Obligations.IdleEngineStateIsNeverRead
  intro s s' t hb hs' h
  have hs' : s' = State.graft s' s := hs'
  change ∃ t', step s' = .next t' ∧ t.AgreesWhileIdle t'
  rw [hs']
  cases hn : s.nextTurn with
  | reset =>
    have hn' : (State.graft s' s).nextTurn = .reset := hn
    rw [step_of_reset hn] at h
    cases h
    exact ⟨_, step_of_reset hn', .refl _⟩
  | engine =>
    have hn' : (State.graft s' s).nextTurn = .engine := hn
    rw [step_of_engine hn, engineStep_idle (s := s.popTurn) hb] at h
    cases h
    refine ⟨_, step_of_engine hn', ?_⟩
    rw [engineStep_idle (s := (State.graft s' s).popTurn) hb]
    exact .graft s' hb
  | host =>
    have hn' : (State.graft s' s).nextTurn = .host := hn
    cases hh : s.host with
    | nil =>
      rw [step_of_host_nil hn hh] at h
      cases h
      exact ⟨_, step_of_host_nil hn' hh, .graft s' hb⟩
    | cons op rest =>
      rw [step_of_host_cons hn hh] at h
      rw [step_of_host_cons hn' hh]
      exact hostStep_graft s' (s := { s.popTurn with host := rest }) hb h

end Sys2Proof.Machine
end

section
/-! PROOFS. The bounds of the double fold (40_checksum.md R104). -/

namespace Sys2Proof.Machine

/-- Settles O43: the high half of a 32-bit integer is within 2^15 of zero and the low half below 2^16, so the second
addition's carry is -1, 0 or 1. -/
theorem foldStaysInBounds : Obligations.FoldStaysInBounds := by
  unfold Obligations.FoldStaysInBounds
  intro acc n a1 hn ha1
  have fold_eq : fold acc = a1 + a1 / 65536 := by rw [ha1, hn]; rfl
  have unsigned := acc.isLt
  have signed := BitVec.toInt_eq_toNat_cond acc
  rw [← hn] at signed
  rw [fold_eq]
  refine ⟨rfl, fun nonneg => ?_, fun neg => ?_⟩
  · have number : n = acc.toNat := by split at signed <;> omega
    have halves : a1 = (acc.toNat >>> 16 : Nat) + (acc.toNat % 65536 : Nat) := by
      rw [ha1, number, Nat.shiftRight_eq_div_pow]
      omega
    have : acc.toNat < 2 ^ 31 := by split at signed <;> omega
    exact ⟨by omega, by omega, by omega, by omega, halves⟩
  · have : -2 ^ 31 ≤ n := by split at signed <;> omega
    have carry : a1 + a1 / 65536 = if a1 < 0 then a1 - 1 else a1 := by split <;> omega
    exact ⟨by omega, by omega, by omega, by omega, carry, by omega, by omega⟩

end Sys2Proof.Machine
end

section
/-! PROOFS. What a raced byte reads as and is summed as (20_memory.md R60; 70_reset_and_hazards.md R166;
log 6, log 27). -/

namespace Sys2Proof.Machine

/-! ### The engine's read -/

/-- The read of ordinary memory whose candidates are all known answers one of them. -/
theorem State.memRead_of_known {s : State} {a : Word} (outside : s.inWindow a = false)
    (answers : s.busErrs.contains a.toNat = false) (known : none ∉ s.candidates a.toNat) :
    ∃ b, some b ∈ s.candidates a.toNat ∧ s.memRead a = .byte b := by
  have picked :
      pickCandidate (Config.raceChoice s.engineReads.length) (s.candidates a.toNat) ∈ s.candidates a.toNat := by
    unfold State.candidates
    cases s.racedValues a.toNat with
    | nil => exact pickCandidate_mem _ _ _
    | cons c cs => exact pickCandidate_mem _ _ _
  simp only [State.memRead, outside, answers]
  cases hc : pickCandidate (Config.raceChoice s.engineReads.length) (s.candidates a.toNat) with
  | none => exact absurd (hc ▸ picked) known
  | some b => exact ⟨b, hc ▸ picked, rfl⟩

/-- The read of ordinary memory that nothing races answers the byte it holds. -/
theorem State.memRead_quiet {s : State} {a : Word} {b : Byte} (holds : s.mem.read a.toNat = some b)
    (quiet : ∀ c ∈ s.raceLog, c.1 ≠ a.toNat) (outside : s.inWindow a = false)
    (answers : s.busErrs.contains a.toNat = false) : s.memRead a = .byte b := by
  have candidates : s.candidates a.toNat = [some b] := by rw [State.candidates_quiet quiet, holds]
  obtain ⟨b', hb', read⟩ := State.memRead_of_known outside answers (by simp [candidates])
  simp only [candidates, List.mem_singleton, Option.some.injEq] at hb'
  rw [read, hb']

/-! ### One store during a BUF -/

section raced

variable {s : State} {a : Word} {old new : Byte} (busy : s.busy = true) (holds : s.mem.read a.toNat = some old)
  (quiet : ∀ c ∈ s.raceLog, c.1 ≠ a.toNat)
include busy holds quiet

/-- The race log then lists the old and the new byte for its address. -/
theorem State.racedValues_storeByte :
    (s.storeByte a (some new)).racedValues a.toNat = [some old, some new] := by
  have none_before : s.raceLog.filter (·.1 == a.toNat) = [] :=
    List.filter_eq_nil_iff.mpr fun c hc => by simpa using quiet c hc
  simp [State.racedValues, busy, holds, List.filter_append, none_before]

/-- A read after the store answers the old or the new byte. -/
theorem State.memRead_storeByte (outside : s.inWindow a = false) (answers : s.busErrs.contains a.toNat = false) :
    (s.storeByte a (some new)).memRead a = .byte old ∨ (s.storeByte a (some new)).memRead a = .byte new := by
  have candidates : (s.storeByte a (some new)).candidates a.toNat = [some old, some new] := by
    rw [State.candidates, State.racedValues_storeByte busy holds quiet]
  obtain ⟨b, hb, read⟩ :=
    State.memRead_of_known (s := s.storeByte a (some new)) outside answers (by simp [candidates])
  simp only [candidates, List.mem_cons, Option.some.injEq, List.not_mem_nil, or_false] at hb
  rw [read]
  exact hb.imp (congrArg _) (congrArg _)

/-- A byte read before the store is summed as the byte read, the old or the new one. -/
theorem State.settledByte_storeByte {i : Nat} (b : Byte) (ha : a = s.engSrc + BitVec.ofNat 32 i) :
    (s.storeByte a (some new)).settledByte i b = b ∨ (s.storeByte a (some new)).settledByte i b = old ∨
      (s.storeByte a (some new)).settledByte i b = new := by
  rcases (s.storeByte a (some new)).settledByte_cases i b with kept | ⟨c, hc, address, value⟩
  · exact .inl kept
  · rw [State.storeByte_engSrc, ← ha] at address
    rw [State.storeByte_raceLog, if_pos busy, holds, List.mem_append] at hc
    have hc := hc.resolve_left fun before => quiet c before address
    simp only [List.mem_cons, List.not_mem_nil, or_false] at hc
    rcases hc with rfl | rfl
    · simp only [reduceCtorEq, Option.some.injEq, false_or] at value
      exact .inr (.inl value.symm)
    · simp only [reduceCtorEq, Option.some.injEq, false_or] at value
      exact .inr (.inr value.symm)

end raced

theorem State.settledBytes_getElem? (s : State) (i : Nat) :
    s.settledBytes[i]? = s.engBytes[i]?.map (s.settledByte i) := List.getElem?_mapIdx

/-- Settles O36: a read picks among the byte held and the values its race lists, and a commit among the byte read and
those. -/
theorem racedReadGivesOldOrNew : Obligations.RacedReadGivesOldOrNew := by
  unfold Obligations.RacedReadGivesOldOrNew
  refine ⟨fun s a old new busy holds quiet outside answers => ⟨?_, _, step_offer_store new outside, ?_⟩,
    fun s busy all => ⟨_, rfl, s.settledBytes_length, ?_, fun i hi => ?_⟩,
    fun s i old new b busy read holds quiet outside => ⟨_, step_offer_store new outside, rfl, ?_⟩⟩
  · exact State.memRead_quiet holds quiet outside answers
  · exact State.memRead_storeByte busy holds quiet outside answers
  · rw [step_grant_engine_commit busy all, State.commit_eq]
  · rw [State.settledBytes_length] at hi
    rw [State.settledBytes_getElem?, List.getElem?_eq_getElem hi, Option.map_some, Option.some.injEq]
    exact s.settledByte_cases i s.engBytes[i]
  · rw [State.settledBytes_getElem?, State.storeByte_engBytes, read, Option.map_some]
    simp only [Option.some.injEq]
    exact State.settledByte_storeByte busy holds quiet b rfl

end Sys2Proof.Machine
end

section
/-! PROOFS. Runs under the default schedule (log 7), and a BUF left to the engine (41_commands.md R132; 20_memory.md
R63). -/

namespace Sys2Proof.Machine

/-! ### Runs -/

theorem run_add {j : Nat} {s t : State} (k : Nat) (h : run j s = .next t) : run (j + k) s = run k t := by
  induction j generalizing s with
  | zero => cases h; rw [Nat.zero_add]
  | succ j ih =>
    obtain ⟨u, hu⟩ := everyStateHasANextStep s
    rw [run_succ j hu] at h
    rw [Nat.succ_add, run_succ _ hu, ih h]

/-- A property that every step between busy states keeps holds all along a run during which BUSY stays 1. -/
theorem run_keeps {P : State → Prop} {k : Nat} {s t : State} (start : P s)
    (keeps : ∀ x y, P x → step x = .next y → y.busy = true → P y) (h : run k s = .next t)
    (busy : ∀ j ≤ k, ∀ x, run j s = .next x → x.busy = true) : P t := by
  induction k generalizing s with
  | zero => cases h; exact start
  | succ k ih =>
    obtain ⟨u, hu⟩ := everyStateHasANextStep s
    rw [run_succ k hu] at h
    have busy' : ∀ j ≤ k, ∀ x, run j u = .next x → x.busy = true := fun j hj x hx =>
      busy (j + 1) (Nat.succ_le_succ hj) x ((run_succ j hu).trans hx)
    exact ih (keeps s u start hu (busy' 0 (Nat.zero_le _) u rfl)) h busy'

/-! ### The default schedule -/

section default

variable {s : State} (hs : s.sched = [])
include hs

theorem State.nextTurn_of_busy (hb : s.busy = true) : s.nextTurn = .engine := by simp [State.nextTurn, hs, hb]

theorem State.nextTurn_of_idle (hb : s.busy = false) : s.nextTurn = .host := by simp [State.nextTurn, hs, hb]

/-- While BUSY = 1 the engine moves. -/
theorem step_default_busy (hb : s.busy = true) : step s = .next (engineStep s) := by
  rw [step_of_engine (State.nextTurn_of_busy hs hb), State.popTurn_nil hs]

/-- With nothing pending an idle machine rests. -/
theorem run_default_rest (hb : s.busy = false) (hh : s.host = []) (k : Nat) : run k s = .next s := by
  have rests : step s = .next s := by
    rw [step_of_host_nil (State.nextTurn_of_idle hs hb) hh, State.popTurn_nil hs]
  induction k with
  | zero => rfl
  | succ k ih => rw [run_succ k rests, ih]

end default

/-! ### The engine alone -/

/-- All the engine's step can do to a BUF that has not read more bytes than it has (R36). -/
theorem engineStep_cases_of_busy {s : State} (hb : s.busy = true) (le : s.engBytes.length ≤ s.engLen.toNat) :
    (∃ b, engineStep s = (s.noteRead s.engineAddr).pushByte b ∧ s.engBytes.length < s.engLen.toNat) ∨
    (engineStep s = (s.noteRead s.engineAddr).abort ∧ s.engBytes.length < s.engLen.toNat) ∨
    (engineStep s = s.commit ∧ s.engBytes.length = s.engLen.toNat) := by
  rcases engineStep_cases s with ⟨-, idle | past⟩ | ⟨b, e, -, lt, -⟩ | ⟨e, -, lt, -⟩ | ⟨e, -, all⟩
  · exact nomatch hb.symm.trans idle
  · exact absurd le past.not_ge
  · exact .inl ⟨b, e, lt⟩
  · exact .inr (.inl ⟨e, lt⟩)
  · exact .inr (.inr ⟨e, all⟩)

/-- By induction on the bytes still to read. -/
theorem exists_run_idle {s : State} (n : Nat) (hb : s.busy = true) (hs : s.sched = [])
    (left : s.engBytes.length + n = s.engLen.toNat) : ∃ k t, k ≤ n + 1 ∧ run k s = .next t ∧ t.busy = false := by
  induction n generalizing s with
  | zero =>
    rcases engineStep_cases_of_busy hb (by omega) with ⟨b, -, lt⟩ | ⟨-, lt⟩ | ⟨e, -⟩
    · omega
    · omega
    · exact ⟨1, s.commit, Nat.le_refl _, run_succ 0 (e ▸ step_default_busy hs hb), rfl⟩
  | succ n ih =>
    have first := step_default_busy hs hb
    rcases engineStep_cases_of_busy hb (by omega) with ⟨b, e, -⟩ | ⟨e, -⟩ | ⟨-, all⟩
    · rw [e] at first
      have left' : (s.engBytes ++ [b]).length + n = s.engLen.toNat := by
        rw [List.length_append, List.length_singleton]; omega
      obtain ⟨k, t, hk, ht, idle⟩ := ih (s := (s.noteRead s.engineAddr).pushByte b) hb hs left'
      exact ⟨k + 1, t, Nat.succ_le_succ hk, (run_succ k first).trans ht, idle⟩
    · rw [e] at first
      exact ⟨1, _, by omega, run_succ 0 first, rfl⟩
    · omega

/-- Settles O34, by `exists_run_idle` for the bytes still to read. -/
theorem bufEndsWithinItsBytes : Obligations.BufEndsWithinItsBytes := by
  unfold Obligations.BufEndsWithinItsBytes
  intro s inv hb hs
  exact exists_run_idle _ hb hs (Nat.add_sub_of_le (inv.engBytesLe hb))

/-- The addresses a run reads follow on from the bytes read before it, by induction on the steps. -/
theorem run_engineReads {k : Nat} {s t : State} (hb : s.busy = true) (hs : s.sched = []) (hh : s.host = [])
    (le : s.engBytes.length ≤ s.engLen.toNat) (h : run k s = .next t) :
    ∃ m ≤ k, s.engBytes.length + m ≤ s.engLen.toNat ∧
      t.engineReads = s.engineReads ++ (List.range' s.engBytes.length m).map (fun i => s.engSrc + BitVec.ofNat 32 i) ∧
      (t.busy = true → m = k) ∧ (t.err = false → t.busy = false → s.engBytes.length + m = s.engLen.toNat) := by
  induction k generalizing s with
  | zero =>
    cases h
    exact ⟨0, Nat.le_refl _, le, by simp, fun _ => rfl, fun _ idle => nomatch hb.symm.trans idle⟩
  | succ k ih =>
    have first := step_default_busy hs hb
    rw [run_succ k first] at h
    rcases engineStep_cases_of_busy hb le with ⟨b, e, lt⟩ | ⟨e, lt⟩ | ⟨e, all⟩
    · rw [e] at h
      obtain ⟨m, hm, bound, reads, busy, done⟩ :=
        ih (s := (s.noteRead s.engineAddr).pushByte b) hb hs hh (by simpa using lt) h
      simp only [State.pushByte_engBytes, State.noteRead_engBytes, List.length_append, List.length_singleton,
        State.pushByte_engLen, State.noteRead_engLen] at bound reads done
      refine ⟨m + 1, by omega, by omega, ?_, fun on => congrArg _ (busy on), fun ok idle => ?_⟩
      rotate_left
      · have := done ok idle; omega
      rw [reads, List.range'_succ, List.map_cons, State.pushByte_engineReads, State.noteRead_engineReads,
        List.append_assoc]
      rfl
    · rw [e, run_default_rest (s := (s.noteRead s.engineAddr).abort) hs rfl hh k] at h
      cases h
      exact ⟨1, by omega, by omega, rfl, nofun, nofun⟩
    · rw [e, run_default_rest (s := s.commit) hs rfl hh k] at h
      cases h
      exact ⟨0, by omega, by omega, by simp, nofun, fun _ _ => all⟩

/-- Settles O35: `run_engineReads` from a BUF that has read no byte. -/
theorem engineReadsEachAddressOnceInOrder : Obligations.EngineReadsEachAddressOnceInOrder := by
  unfold Obligations.EngineReadsEachAddressOnceInOrder
  intro s t k inv hb unread hs hh h
  obtain ⟨m, hm, bound, reads, busy, done⟩ := run_engineReads hb hs hh (inv.engBytesLe hb) h
  simp only [unread, List.length_nil, Nat.zero_add, ← List.range_eq_range'] at bound reads done
  exact ⟨m, hm, bound, reads, busy, fun _ => done⟩

end Sys2Proof.Machine
end

section
/-! PROOFS. A BUF over ordinary memory under every schedule (20_memory.md R60; 41_commands.md R128, R130). -/

namespace Sys2Proof.Machine

/-! ### What a host's operation leaves to the bus and the hosts -/

/-- A host's operation changes neither the bus nor the schedule. -/
theorem hostStep_busErrs_sched {op : HostOp} {s t : State} (hs : hostStep op s = .next t) :
    t.busErrs = s.busErrs ∧ t.sched = s.sched := by
  rcases hostStep_cases hs with ⟨r, v, -, hw⟩ | ⟨-, e⟩
  · exact ⟨(writeReg_samePlatform hw).busErrs, (writeReg_samePlatform hw).sched⟩
  · rw [e]
    exact ⟨rfl, rfl⟩

/-- A host's operation is done, or pends again (R78). -/
theorem hostStep_host {op : HostOp} {s t : State} (hs : hostStep op s = .next t) :
    t.host = s.host ∨ t.host = op :: s.host := by
  cases op with
  | read w a => simp only [hostStep] at hs; split at hs <;> cases hs <;> exact .inl rfl
  | poll r mask v =>
    simp only [hostStep] at hs
    split at hs <;> cases hs
    · exact .inl rfl
    · exact .inr rfl
  | store a b => simp only [hostStep] at hs; split at hs <;> cases hs <;> exact .inl rfl
  | write w a v =>
    simp only [hostStep] at hs
    split at hs
    · exact .inl (writeReg_samePlatform hs).host
    · cases hs; exact .inl (s.forgetOutside_host w a)
    · cases hs; exact .inl (s.forgetOutside_host w a)

/-- An operation that spares a range writes none of its bytes. -/
theorem HostOp.not_writes_of_sparesRange {op : HostOp} {s : State} {a : Word} {n i : Nat} (h : op.sparesRange a n)
    (hi : i < n) : ¬ op.Writes s (a + BitVec.ofNat 32 i).toNat := by
  cases op with
  | read w x => exact not_false
  | poll r mask v => exact not_false
  | store x b => exact fun e => h i hi (BitVec.eq_of_toNat_eq e)
  | write w x v =>
    rintro ⟨y, hy, e, -⟩
    exact h y hy i hi (BitVec.eq_of_toNat_eq e)

/-! ### The engine and the hosts while a BUF reads its range -/

/-- A BUF in flight over ordinary memory that holds the bytes `m`, which no store has raced: the engine has read the
first of them. -/
structure State.Reading (m : List Byte) (s : State) : Prop where
  busy : s.busy = true
  length : m.length = s.engLen.toNat
  holds : s.holdsRange s.engSrc m
  quiet : ∀ i < m.length, ∀ c ∈ s.raceLog, c.1 ≠ (s.engSrc + BitVec.ofNat 32 i).toNat
  read : s.engBytes <+: m

namespace State.Reading

variable {m : List Byte} {s : State} (h : s.Reading m)
include h

/-- The turns, the operations pending and the port's record are no part of it. -/
theorem served (host : List HostOp) (sched : List Turn) (rs : List Response) :
    State.Reading m { s with host := host, sched := sched, responses := rs } :=
  ⟨h.busy, h.length, h.holds, h.quiet, h.read⟩

/-- While bytes remain the engine's step takes the next of them. -/
theorem engineStep_of_lt (lt : s.engBytes.length < m.length) :
    engineStep s = (s.noteRead s.engineAddr).pushByte m[s.engBytes.length] := by
  obtain ⟨holds, outside, answers⟩ := h.holds _ lt
  have answer : s.memRead s.engineAddr = .byte m[s.engBytes.length] :=
    State.memRead_quiet holds (h.quiet _ lt) outside answers
  rw [engineStep, if_pos h.busy, if_pos (h.length ▸ lt), State.engineRead, answer]
  rfl

theorem pushByte (lt : s.engBytes.length < m.length) :
    State.Reading m ((s.noteRead s.engineAddr).pushByte m[s.engBytes.length]) where
  busy := h.busy
  length := h.length
  holds := h.holds
  quiet := h.quiet
  read := List.concat_get_prefix h.read lt

/-- When all are read the engine commits their sum. -/
theorem engineStep_of_all (all : s.engBytes.length = m.length) : engineStep s = s.commit := by
  rw [engineStep, if_pos h.busy, if_neg (by rw [all, h.length]; exact lt_irrefl _), if_pos (all.trans h.length)]

theorem settledBytes_of_all (all : s.engBytes.length = m.length) : s.settledBytes = m := by
  rw [State.settledBytes_quiet (all ▸ h.quiet), h.read.eq_of_length all]

/-- A host's operation that spares the range leaves it held and not raced. -/
theorem hostStep {op : HostOp} {t : State} (spares : op.sparesRange s.engSrc m.length)
    (hs : hostStep op s = .next t) : t.Reading m := by
  have unwritten : ∀ i < m.length, ¬ op.Writes s (s.engSrc + BitVec.ofNat 32 i).toNat :=
    fun _ hi => HostOp.not_writes_of_sparesRange spares hi
  have same := hostStep_sameBuf h.busy hs
  refine ⟨same.busy.trans h.busy, by rw [same.engLen, h.length], ?_, ?_, by rw [same.engBytes]; exact h.read⟩
  · rw [same.engSrc]
    intro i hi
    obtain ⟨holds, outside, answers⟩ := h.holds i hi
    refine ⟨(hostStep_mem_read hs (unwritten i hi)).trans holds, ?_, ?_⟩
    · rw [State.inWindow, same.params]; exact outside
    · rw [(hostStep_busErrs_sched hs).1]; exact answers
  · rw [same.engSrc]
    intro i hi c hc e
    rcases hostStep_raceLog hs hc with before | writes
    · exact h.quiet i hi c before e
    · exact unwritten i hi (e ▸ writes)

end State.Reading

/-! ### Every schedule -/

/-- `x` is a state of the BUF over `m` that the state `s` has in flight, with hosts pending that spare its range and no
reset to come. -/
structure State.ReadingOf (s : State) (m : List Byte) (x : State) : Prop where
  reading : x.Reading m
  tail : x.tail = s.tail
  params : x.params = s.params
  engSrc : x.engSrc = s.engSrc
  engAcc0 : x.engAcc0 = s.engAcc0
  engTail0 : x.engTail0 = s.engTail0
  spared : ∀ op ∈ x.host, op.sparesRange s.engSrc m.length
  noReset : Turn.reset ∉ x.sched

/-- A reset's turn stands in the schedule. -/
theorem State.nextTurn_ne_reset {s : State} (h : Turn.reset ∉ s.sched) : s.nextTurn ≠ .reset := by
  unfold State.nextTurn
  cases hs : s.sched with
  | nil => cases s.busy <;> exact nofun
  | cons u us => exact fun e => h (by rw [hs]; exact e ▸ List.mem_cons_self)

theorem State.popTurn_noReset {s : State} (h : Turn.reset ∉ s.sched) : Turn.reset ∉ s.popTurn.sched :=
  fun later => h (List.mem_of_mem_tail later)

/-- All a step can be during such a BUF: one that goes on with it, or its commit. -/
theorem State.ReadingOf.step {s x y : State} {m : List Byte} (h : s.ReadingOf m x) (hs : step x = .next y) :
    s.ReadingOf m y ∨ (x.engBytes.length = m.length ∧ y = x.popTurn.commit) := by
  obtain ⟨reading, tail, params, engSrc, engAcc0, engTail0, spared, noReset⟩ := h
  have noReset' := State.popTurn_noReset noReset
  have popped : x.popTurn.Reading m := reading.served _ _ _
  rcases step_cases hs with ⟨hn, -⟩ | ⟨-, rfl⟩ | ⟨-, -, rfl⟩ | ⟨op, rest, -, hh, hop⟩
  · exact absurd hn (State.nextTurn_ne_reset noReset)
  · rcases reading.read.length_le.lt_or_eq with lt | all
    · rw [popped.engineStep_of_lt lt]
      exact .inl ⟨popped.pushByte lt, tail, params, engSrc, engAcc0, engTail0, spared, noReset'⟩
    · exact .inr ⟨all, popped.engineStep_of_all all⟩
  · exact .inl ⟨popped, tail, params, engSrc, engAcc0, engTail0, spared, noReset'⟩
  · rw [hh] at spared
    have taken : State.Reading m { x.popTurn with host := rest } := reading.served _ _ _
    have same := hostStep_sameBuf taken.busy hop
    refine .inl ⟨taken.hostStep (engSrc ▸ spared op List.mem_cons_self) hop, same.tail.trans tail,
      same.params.trans params, same.engSrc.trans engSrc, same.engAcc0.trans engAcc0, same.engTail0.trans engTail0,
      fun op' h' => spared op' ?_, by rw [(hostStep_busErrs_sched hop).2]; exact noReset'⟩
    rcases hostStep_host hop with e | e
    · rw [e] at h'; exact List.mem_cons_of_mem _ h'
    · rw [e] at h'; exact h'

/-- Settles O38: the bytes the range held at acceptance stay held and not raced along the run, so the step that ends the
BUF commits their sum. -/
theorem bufCommitsSumUnderAnyInterleaving : Obligations.BufCommitsSumUnderAnyInterleaving := by
  unfold Obligations.BufCommitsSumUnderAnyInterleaving
  intro s t u m k inv hb unread quiet length holds spared noReset hrun busy hstep ends
  have start : s.ReadingOf m s :=
    ⟨⟨hb, length, holds, by simp [quiet], by simp [unread]⟩, rfl, rfl, rfl, rfl, rfl, spared, noReset⟩
  have along : s.ReadingOf m t := run_keeps (P := s.ReadingOf m) start
    (fun x y hx hxy on => (hx.step hxy).resolve_right fun c => by rw [c.2] at on; exact nomatch on) hrun busy
  obtain ⟨all, rfl⟩ := (along.step hstep).resolve_left fun more => nomatch more.reading.busy.symm.trans ends
  obtain ⟨reading, tail, params, -, engAcc0, engTail0, -, -⟩ := along
  have sum : sumBytes t.params.hostEndian t.engAcc0 t.settledBytes = sumBytes s.params.hostEndian s.engAcc0 m := by
    rw [params, engAcc0, reading.settledBytes_of_all all]
  rw [State.commit_eq]
  refine ⟨?_, ?_, ?_, ?_, rfl, rfl⟩
  · rw [← sum]
    rfl
  · rw [← sum]
    rfl
  · exact congrArg (t.tailv || ·) (engTail0.trans (inv.engTail0Eq hb))
  · rw [← tail, reading.length]
    rfl

end Sys2Proof.Machine
end

section
/-! PROOFS. The checksum of a range and of inline bytes under the default schedule (41_commands.md R130, R131;
30_encoding.md R79; log 7). -/

namespace Sys2Proof.Machine

/-! ### A host's operation under the default schedule -/

/-- The state in which CSUM takes a host's write under the default schedule: `rest` is left pending and the port has
answered. -/
def State.taken (rest : List HostOp) (s : State) : State := State.respond .done { s with host := rest }

/-- A completed write returns no value. -/
theorem State.taken_readValues (rest : List HostOp) (s : State) : (s.taken rest).readValues = s.readValues := by
  simp [State.readValues, State.taken]

/-- A read returns its value. -/
theorem State.respond_value_readValues (v : Word) (s : State) :
    (s.respond (.value v)).readValues = s.readValues ++ [v] := by
  simp [State.readValues]

section default

variable {s : State} {rest : List HostOp} (hs : s.sched = []) (hb : s.busy = false)
include hs hb

theorem step_default_host {op : HostOp} (hh : s.host = op :: rest) : step s = hostStep op { s with host := rest } := by
  rw [step_of_host_cons (State.nextTurn_of_idle hs hb) hh, State.popTurn_nil hs]

theorem step_default_write {r : Reg} {v : Word} (hh : s.host = hostWR s.params r v :: rest) :
    step s = writeReg r v (s.taken rest) :=
  (step_default_host hs hb hh).trans (hostStep_write_reg { s with host := rest } r v)

theorem step_default_cmd {i : Instr} (hh : s.host = hostCMD s.params i :: rest) : step s = exec i (s.taken rest) :=
  (step_default_write hs hb hh).trans (issue_legal _ (decode_encode i))

theorem step_default_read {r : Reg} (hh : s.host = hostRD s.params r :: rest) :
    step s = .next (State.respond (.value (s.readReg r)) { s with host := rest }) := by
  rw [step_default_host hs hb hh]
  refine (hostStep_read_reg { s with host := rest } r).trans ?_
  cases r <;> rfl

end default

/-! ### A BUF left to the engine -/

/-- The state once the BUF in flight has summed `m`. -/
def State.summed (m : List Byte) (s : State) : State :=
  { s with
    acc := (sumBytes s.params.hostEndian s.engAcc0 m).1
    ovf := s.ovf || (sumBytes s.params.hostEndian s.engAcc0 m).2
    tailv := s.tailv || s.engTail0
    tail := s.tail || decide (m.length % 2 = 1)
    busy := false
    engBytes := m }

/-- By induction on the bytes still to read: the engine reads them and commits. -/
theorem State.Reading.run_commit {m : List Byte} {s : State} (h : s.Reading m) (hs : s.sched = []) (n : Nat)
    (left : s.engBytes.length + n = m.length) :
    ∃ t, run (n + 1) s = .next t ∧ t = { s.summed m with engineReads := t.engineReads } := by
  have first := step_default_busy hs h.busy
  induction n generalizing s with
  | zero =>
    rw [h.engineStep_of_all left] at first
    refine ⟨s.commit, run_succ 0 first, ?_⟩
    rw [State.commit_eq, h.settledBytes_of_all left, ← h.length, State.summed, ← h.read.eq_of_length left]
  | succ n ih =>
    have lt : s.engBytes.length < m.length := by omega
    rw [h.engineStep_of_lt lt] at first
    have pushed := h.pushByte lt
    have left' : (s.engBytes ++ [m[s.engBytes.length]]).length + n = m.length := by
      rw [List.length_append, List.length_singleton]; omega
    obtain ⟨t, ht, e⟩ := ih pushed hs left' (step_default_busy hs pushed.busy)
    exact ⟨t, (run_succ _ first).trans ht, e⟩

/-! ### CLEAR then BUF -/

/-- The state once the checksum of `m` is computed from a CLEAR (R130, R131). -/
def State.checksummed (m : List Byte) (s : State) : State :=
  { s with
    acc := (sumBytes s.params.hostEndian 0#32 m).1
    ovf := (sumBytes s.params.hostEndian 0#32 m).2
    tail := decide (m.length % 2 = 1)
    tailv := false }

/-- The checksum of no bytes is what a CLEAR leaves. -/
theorem step_default_clear {s : State} {rest : List HostOp} (hs : s.sched = []) (hb : s.busy = false)
    (hh : s.host = hostCMD s.params .clear :: rest) : step s = .next ((s.taken rest).checksummed []) :=
  (step_default_cmd hs hb hh).trans (exec_clear_idle (s := s.taken rest) hb)

/-- The whole state after CLEAR and BUF over ordinary memory, but for the engine's. -/
theorem run_clear_buf {s : State} {m : List Byte} {rest : List HostOp} (hb : s.busy = false) (hs : s.sched = [])
    (hh : s.host = hostCMD s.params .clear :: hostCMD s.params .buf :: rest) (length : m.length = s.len.toNat)
    (range : s.src.toNat + s.len.toNat ≤ 2 ^ 32) (holds : s.holdsRange s.src m) :
    ∃ t, run (if m = [] then 2 else m.length + 3) s = .next t ∧ t = State.graft t { s.checksummed m with
      busy := false
      engineReads := t.engineReads
      host := rest
      responses := s.responses ++ [.done] ++ [.done] } := by
  have clear := step_default_clear hs hb hh
  generalize hu : (s.taken (hostCMD s.params .buf :: rest)).checksummed [] = u at clear
  have u_busy : u.busy = false := by rw [← hu]; exact hb
  have u_sched : u.sched = [] := by rw [← hu]; exact hs
  have u_host : u.host = hostCMD u.params .buf :: rest := by rw [← hu]; rfl
  have legal : ¬ (u.taken rest).rangeBad = true := by
    rw [State.rangeBad_iff, ← hu]
    exact range.not_gt
  have buf : step u = .next (if u.len = 0#32 then u.taken rest else (u.taken rest).startEngine) := by
    rw [step_default_cmd u_sched u_busy u_host, exec_buf_idle (s := u.taken rest) u_busy, if_neg legal]
    rfl
  have zero : u.len = 0#32 ↔ m = [] := by
    rw [← List.length_eq_zero_iff, length, ← hu]
    exact BitVec.toNat_inj (y := 0#32).symm
  by_cases hm : m = []
  · rw [if_pos (zero.mpr hm)] at buf
    refine ⟨u.taken rest, ?_, ?_⟩
    · rw [if_pos hm, run_succ 1 clear, run_succ 0 buf]
      rfl
    · rw [← hu, hm, ← hb]
      rfl
  · rw [if_neg (mt zero.mp hm)] at buf
    have reading : ((u.taken rest).startEngine).Reading m := by
      rw [← hu]
      exact ⟨rfl, length, holds, fun i hi c hc => (List.not_mem_nil hc).elim, List.nil_prefix⟩
    obtain ⟨t, ht, e⟩ := reading.run_commit (by exact u_sched) m.length (by simp)
    refine ⟨t, ?_, ?_⟩
    · rw [if_neg hm, run_succ _ clear, run_succ _ buf, ht]
    · rw [e, ← hu]
      rfl

/-- Settles O37, by `run_clear_buf`. -/
theorem clearThenBufComputesChecksum : Obligations.ClearThenBufComputesChecksum := by
  unfold Obligations.ClearThenBufComputesChecksum
  intro s m rest hb hs hh length range holds
  obtain ⟨t, ht, e⟩ := run_clear_buf hb hs hh length range holds
  refine ⟨t, ht, ?_⟩
  rw [e]
  exact ⟨rfl, rfl, rfl, rfl, rfl, rfl, rfl, rfl, rfl, rfl, rfl, rfl⟩

/-! ### The pseudo-instruction CSUM -/

/-- Bit 0 of STATUS is BUSY (R28). -/
theorem State.readReg_status_idle {s : State} (hb : s.busy = false) : s.readReg .status &&& 0x1#32 = 0x0#32 := by
  apply BitVec.eq_of_toNat_eq
  rw [State.readReg, State.statusWord_eq, hb, BitVec.toNat_and, BitVec.toNat_ofNat, BitVec.toNat_ofNat,
    Nat.one_mod, Nat.and_one_is_mod, Bool.toNat_false]
  change _ = 0
  omega

/-- A POLL whose condition holds is done. -/
theorem step_default_poll {s : State} {rest : List HostOp} {r : Reg} {mask v : Word} (hs : s.sched = [])
    (hb : s.busy = false) (hh : s.host = .poll r mask v :: rest) (met : s.readReg r &&& mask = v) :
    step s = .next (State.respond (.value (s.readReg r)) { s with host := rest }) := by
  have same : State.readReg { s with host := rest } r = s.readReg r := by cases r <;> rfl
  rw [step_default_host hs hb hh, hostStep, same, if_pos met]

/-- The state once a host has written SRC and LEN, with `rest` left pending. -/
def State.ranged (src len : Word) (rest : List HostOp) (s : State) : State :=
  { s with
    src := src
    len := len
    host := rest
    responses := s.responses ++ [.done] ++ [.done] }

theorem run_wr_src_len {s : State} {src len : Word} {rest : List HostOp} (hb : s.busy = false) (hs : s.sched = [])
    (hh : s.host = hostWR s.params .src src :: hostWR s.params .len len :: rest) :
    run 2 s = .next (s.ranged src len rest) := by
  have first := (step_default_write hs hb hh).trans (writeReg_src_idle (s := s.taken _) hb src)
  have second := step_default_write (s := { s.taken (hostWR s.params .len len :: rest) with src := src }) hs hb rfl
  rw [run_succ 1 first, run_succ 0 (second.trans (writeReg_len_idle (by exact hb) len))]
  rfl

/-- The POLL for BUSY = 0 at an idle CSUM, and the read of RESULT. -/
theorem run_poll_rd {s : State} (hb : s.busy = false) (hs : s.sched = [])
    (hh : s.host = [.poll .status 0x1#32 0x0#32, hostRD s.params .result]) :
    run 2 s = .next { s with
      host := []
      responses := s.responses ++ [.value (s.readReg .status)] ++ [.value (s.readReg .result)] } := by
  have first := step_default_poll hs hb hh (State.readReg_status_idle hb)
  have second := step_default_read
    (s := State.respond (.value (s.readReg .status)) { s with host := [hostRD s.params .result] }) hs hb rfl
  rw [run_succ 1 first, run_succ 0 second]
  rfl

/-- Settles O40: SRC and LEN written, CLEAR and BUF as in O37, and a POLL that the idle STATUS meets at once. -/
theorem csumPseudoInstructionReadsChecksum : Obligations.CsumPseudoInstructionReadsChecksum := by
  unfold Obligations.CsumPseudoInstructionReadsChecksum
  intro s src len m hb he hs hh length range holds
  have operands := run_wr_src_len hb hs hh
  obtain ⟨t, sum, e⟩ := run_clear_buf (m := m) (rest := [.poll .status 0x1#32 0x0#32, hostRD s.params .result])
    (s := s.ranged src len (hostCMD s.params .clear :: hostCMD s.params .buf ::
      [.poll .status 0x1#32 0x0#32, hostRD s.params .result])) hb hs rfl length range holds
  have idle : t.busy = false := by rw [e]; rfl
  have value : t.readReg .result = (checksum s.params.hostEndian m).zeroExtend 32 := by rw [e]; rfl
  have finish := run_poll_rd idle (by rw [e]; exact hs) (by rw [e]; rfl)
  have steps : (if m = [] then 6 else m.length + 7) = 2 + ((if m = [] then 2 else m.length + 3) + 2) := by
    split <;> omega
  have whole := (congrArg (run · s) steps).trans ((run_add _ operands).trans ((run_add _ sum).trans finish))
  refine ⟨_, t.readReg .status, whole, ⟨rfl, idle⟩, ?_, ?_⟩
  · rw [e]; exact he
  · rw [← value, e]
    simp [State.readValues, State.graft, State.checksummed, State.ranged]

/-! ### Inline bytes -/

/-- The commands for inline bytes add them as a BUF does (R131), by induction on the pairs; with TAIL clear before them
none sets TAILV. -/
theorem run_addCommands {s : State} {rest : List HostOp} (bytes : List Byte) (hb : s.busy = false) (hs : s.sched = [])
    (untailed : s.tail = false) (hh : s.host = (addCommands bytes).map (hostCMD s.params) ++ rest) :
    ∃ t, run (addCommands bytes).length s = .next t ∧ t.readValues = s.readValues ∧ t = { s with
      acc := (sumBytes s.params.hostEndian s.acc bytes).1
      ovf := s.ovf || (sumBytes s.params.hostEndian s.acc bytes).2
      tail := decide (bytes.length % 2 = 1)
      host := rest
      responses := t.responses } := by
  induction bytes using addCommands.induct generalizing s with
  | case1 =>
    refine ⟨s, rfl, rfl, ?_⟩
    have hh : s.host = rest := hh
    rw [sumBytes, Bool.or_false, ← hh]
    change s = { s with tail := false }
    rw [← untailed]
  | case2 b =>
    have add := (step_default_cmd hs hb hh).trans (exec_add1_idle (by exact hb) b)
    refine ⟨_, run_succ 0 add, State.taken_readValues rest s, ?_⟩
    simp [State.addData, State.taken, State.respond, untailed, sumBytes]
  | case3 b0 b1 bytes ih =>
    have add := (step_default_cmd hs hb hh).trans (exec_add2_idle (by exact hb) b0 b1)
    obtain ⟨t, ht, values, e⟩ := ih
      (s := (s.taken ((addCommands bytes).map (hostCMD s.params) ++ rest)).addData (wordOf s.params.hostEndian b0 b1))
      hb hs untailed rfl
    refine ⟨t, (run_succ _ add).trans ht, values.trans (State.taken_readValues _ s), e.trans ?_⟩
    have parity : (b0 :: b1 :: bytes).length % 2 = bytes.length % 2 := Nat.add_mod_right _ 2
    rw [parity, sumBytes, ← Bool.or_assoc]
    simp [State.addData, State.taken, State.respond, untailed]

/-- Settles O39: a CLEAR leaves the checksum of no bytes, the commands add theirs, and RESULT is read. -/
theorem inlineBytesComputeChecksum : Obligations.InlineBytesComputeChecksum := by
  unfold Obligations.InlineBytesComputeChecksum
  intro s bytes hb hs hh
  have clear := step_default_clear hs hb hh
  obtain ⟨t, adds, values, e⟩ := run_addCommands (rest := [hostRD s.params .result])
    (s := (s.taken ((addCommands bytes).map (hostCMD s.params) ++ [hostRD s.params .result])).checksummed []) bytes
    hb hs rfl rfl
  have idle : t.busy = false := by rw [e]; exact hb
  have value : t.readReg .result = (checksum s.params.hostEndian bytes).zeroExtend 32 := by rw [e]; rfl
  have returned : t.readValues = s.readValues := values.trans (State.taken_readValues _ s)
  have read := step_default_read (s := t) (r := .result) (rest := []) (by rw [e]; exact hs) idle (by rw [e]; rfl)
  have whole := (run_succ _ clear).trans ((run_add 1 adds).trans (run_succ 0 read))
  refine ⟨_, whole, ⟨rfl, idle⟩, ?_, ?_, ?_, ?_, ?_, ?_⟩
  · rw [e]; rfl
  · rw [e]; rfl
  · rw [e]; rfl
  · rw [e]; rfl
  · exact value
  · exact (State.respond_value_readValues _ _).trans (congrArg₂ (· ++ [·]) returned value)

end Sys2Proof.Machine
end
